-- ==== Sys2Proof/Word.lean ====
section
/-! DEFINITION. The two word sizes of the machine and the names of its register numbers.
Every value is unsigned (00_scope.md R3). -/

namespace Sys2Proof

/-- Eight bits: a general register, a timer, a memory cell (00_scope.md R3). -/
abbrev Byte := BitVec 8

/-- Sixteen bits: an instruction word, `I`, `PC`, a stack entry (00_scope.md R3). -/
abbrev Word := BitVec 16

/-- The number of a general register, the value of a 4-bit field; none is invalid (10_state.md R10). -/
abbrev Reg := Fin 16

/-- `VF`, the register that doubles as the flag (10_state.md R13). -/
abbrev Reg.vf : Reg := 15

end Sys2Proof
end

