-- ==== Sys2Proof/WellFormed.lean ====
section
/-! DEFINITION. Which terms of `Instr` are instructions of the machine. Register numbers, constants and
addresses are bounded by their types; the sprite height is a count and is checked here. -/

namespace Sys2Proof

/-- An instruction's operands fit their fields: the sprite height of Dxyn is 0 to 15
(30_encoding.md R63); nothing else can be out of range. -/
def Instr.wellFormed : Instr → Bool
  | .drw _ _ n => n ≤ 15
  | .cls | .ret | .jp _ | .call _ | .se _ _ | .sne _ _ | .ldImm _ _ | .addImm _ _
  | .ldReg _ _ | .andReg _ _ | .xorReg _ _ | .addReg _ _ | .ldI _ | .rnd _ _
  | .ldVxDt _ | .ldDtVx _ | .ldStVx _ | .addI _ | .ldF _ | .ldB _ | .ldMemVx _ | .ldVxMem _ => true

/-- `Instr.wellFormed` as a proposition. -/
abbrev Instr.WellFormed (i : Instr) : Prop := i.wellFormed = true

end Sys2Proof
end

