-- ==== Sys2Proof/Decode.lean ====
section
/-! DEFINITION. Decoding an instruction word, the encoder, and the opcode table's masks
(30_encoding.md R60 to R68). -/

namespace Sys2Proof

/-- Why bytes are no instruction. -/
inductive DecodeError where
  /-- The word matches none of the 23 patterns (30_encoding.md R68). -/
  | unknownInstruction (w : Word)
  /-- Fewer than two bytes are given; the machine never asks this, its fetch reads two. -/
  | truncated
deriving DecidableEq, Repr

/-! ## Bytes and fields -/

/-- `hi || lo`: the byte at the lower address is the high one (20_memory.md R44, R47). -/
def joinBytes (hi lo : Byte) : Word := hi ++ lo

/-- Bits 15:8 of a word. -/
def hiByte (w : Word) : Byte := w.extractLsb' 8 8

/-- Bits 7:0 of a word. -/
def loByte (w : Word) : Byte := w.extractLsb' 0 8

/-- The field `op`, bits 15:12 (30_encoding.md R62). -/
def fieldOp (w : Word) : BitVec 4 := w.extractLsb' 12 4

/-- The field `x`, bits 11:8. -/
def fieldX (w : Word) : Reg := (w.extractLsb' 8 4).toFin

/-- The field `y`, bits 7:4. -/
def fieldY (w : Word) : Reg := (w.extractLsb' 4 4).toFin

/-- The field `n`, bits 3:0. -/
def fieldN (w : Word) : BitVec 4 := w.extractLsb' 0 4

/-- The field `nnn`, bits 11:0. -/
def fieldNnn (w : Word) : BitVec 12 := w.extractLsb' 0 12

/-- The field `kk`, bits 7:0. -/
def fieldKk (w : Word) : Byte := w.extractLsb' 0 8

/-! ## The decoder -/

/-- `Decode(w)` (30_encoding.md R64), total; a word of no row is rejected by name (R68). -/
def decode (w : Word) : Except DecodeError Instr :=
  match (fieldOp w).toNat with
  | 0x0 =>
    if w = 0x00E0#16 then .ok .cls
    else if w = 0x00EE#16 then .ok .ret
    else .error (.unknownInstruction w)
  | 0x1 => .ok (.jp (fieldNnn w))
  | 0x2 => .ok (.call (fieldNnn w))
  | 0x3 => .ok (.se (fieldX w) (fieldKk w))
  | 0x4 => .ok (.sne (fieldX w) (fieldKk w))
  | 0x6 => .ok (.ldImm (fieldX w) (fieldKk w))
  | 0x7 => .ok (.addImm (fieldX w) (fieldKk w))
  | 0x8 =>
    match (fieldN w).toNat with
    | 0x0 => .ok (.ldReg (fieldX w) (fieldY w))
    | 0x2 => .ok (.andReg (fieldX w) (fieldY w))
    | 0x3 => .ok (.xorReg (fieldX w) (fieldY w))
    | 0x4 => .ok (.addReg (fieldX w) (fieldY w))
    | _ => .error (.unknownInstruction w)
  | 0xA => .ok (.ldI (fieldNnn w))
  | 0xC => .ok (.rnd (fieldX w) (fieldKk w))
  | 0xD => .ok (.drw (fieldX w) (fieldY w) (fieldN w).toNat)
  | 0xF =>
    match (fieldKk w).toNat with
    | 0x07 => .ok (.ldVxDt (fieldX w))
    | 0x15 => .ok (.ldDtVx (fieldX w))
    | 0x18 => .ok (.ldStVx (fieldX w))
    | 0x1E => .ok (.addI (fieldX w))
    | 0x29 => .ok (.ldF (fieldX w))
    | 0x33 => .ok (.ldB (fieldX w))
    | 0x55 => .ok (.ldMemVx (fieldX w))
    | 0x65 => .ok (.ldVxMem (fieldX w))
    | _ => .error (.unknownInstruction w)
  | _ => .error (.unknownInstruction w)   -- 0x5, 0x9, 0xB, 0xE: no pattern (R64)

/-- Decode the first instruction of a byte string, high byte first, and give the bytes after it
(30_encoding.md R60). -/
def decodeBytes : List Byte → Except DecodeError (Instr × List Byte)
  | hi :: lo :: rest =>
    match decode (joinBytes hi lo) with
    | .ok i => .ok (i, rest)
    | .error e => .error e
  | _ => .error .truncated

/-- The host's question: the instruction read from a table row's word. One word of 16 bits is the
longest instruction; its bytes are laid out high byte first. -/
def decodeTableWord (nbits w : Nat) : Option Instr :=
  let word : Word := BitVec.ofNat 16 (w % 2 ^ nbits)
  match decodeBytes [hiByte word, loByte word] with
  | .ok (i, _) => some i
  | .error _ => none

/-! ## The encoder -/

/-- A register number as its 4-bit field. -/
def regBits (x : Reg) : BitVec 4 := BitVec.ofFin x

/-- Format NNN (30_encoding.md R61). -/
def packNnn (op : BitVec 4) (nnn : BitVec 12) : Word := op ++ nnn

/-- Formats XKK and XFF (30_encoding.md R61). -/
def packXkk (op : BitVec 4) (x : Reg) (kk : Byte) : Word := op ++ regBits x ++ kk

/-- Formats XYF and XYN (30_encoding.md R61). -/
def packXyn (op : BitVec 4) (x y : Reg) (n : BitVec 4) : Word := op ++ regBits x ++ regBits y ++ n

/-- The word of an instruction, from the patterns of 30_encoding.md R66. -/
def encode : Instr → Word
  | .cls => 0x00E0
  | .ret => 0x00EE
  | .jp nnn => packNnn 0x1 nnn
  | .call nnn => packNnn 0x2 nnn
  | .se x kk => packXkk 0x3 x kk
  | .sne x kk => packXkk 0x4 x kk
  | .ldImm x kk => packXkk 0x6 x kk
  | .addImm x kk => packXkk 0x7 x kk
  | .ldReg x y => packXyn 0x8 x y 0x0
  | .andReg x y => packXyn 0x8 x y 0x2
  | .xorReg x y => packXyn 0x8 x y 0x3
  | .addReg x y => packXyn 0x8 x y 0x4
  | .ldI nnn => packNnn 0xA nnn
  | .rnd x kk => packXkk 0xC x kk
  | .drw x y n => packXyn 0xD x y (BitVec.ofNat 4 n)
  | .ldVxDt x => packXkk 0xF x 0x07
  | .ldDtVx x => packXkk 0xF x 0x15
  | .ldStVx x => packXkk 0xF x 0x18
  | .addI x => packXkk 0xF x 0x1E
  | .ldF x => packXkk 0xF x 0x29
  | .ldB x => packXkk 0xF x 0x33
  | .ldMemVx x => packXkk 0xF x 0x55
  | .ldVxMem x => packXkk 0xF x 0x65

/-- The two bytes of an instruction in the order memory holds them (30_encoding.md R60). -/
def encodeBytes (i : Instr) : List Byte := [hiByte (encode i), loByte (encode i)]

/-! ## The opcode table's rows -/

/-- One row of the opcode table: a word matches when `w &&& mask = pattern` (30_encoding.md R66). -/
structure OpcodeRow where
  /-- The bits the row fixes. -/
  mask : Word
  /-- Their values. -/
  pattern : Word
deriving DecidableEq, Repr

/-- A word matches a row (30_encoding.md R66). -/
def OpcodeRow.matches (r : OpcodeRow) (w : Word) : Bool := w &&& r.mask == r.pattern

/-- The table's row of an instruction, its mask and match columns (30_encoding.md R66). -/
def Instr.row : Instr → OpcodeRow
  | .cls => ⟨0xFFFF, 0x00E0⟩
  | .ret => ⟨0xFFFF, 0x00EE⟩
  | .jp _ => ⟨0xF000, 0x1000⟩
  | .call _ => ⟨0xF000, 0x2000⟩
  | .se _ _ => ⟨0xF000, 0x3000⟩
  | .sne _ _ => ⟨0xF000, 0x4000⟩
  | .ldImm _ _ => ⟨0xF000, 0x6000⟩
  | .addImm _ _ => ⟨0xF000, 0x7000⟩
  | .ldReg _ _ => ⟨0xF00F, 0x8000⟩
  | .andReg _ _ => ⟨0xF00F, 0x8002⟩
  | .xorReg _ _ => ⟨0xF00F, 0x8003⟩
  | .addReg _ _ => ⟨0xF00F, 0x8004⟩
  | .ldI _ => ⟨0xF000, 0xA000⟩
  | .rnd _ _ => ⟨0xF000, 0xC000⟩
  | .drw _ _ _ => ⟨0xF000, 0xD000⟩
  | .ldVxDt _ => ⟨0xF0FF, 0xF007⟩
  | .ldDtVx _ => ⟨0xF0FF, 0xF015⟩
  | .ldStVx _ => ⟨0xF0FF, 0xF018⟩
  | .addI _ => ⟨0xF0FF, 0xF01E⟩
  | .ldF _ => ⟨0xF0FF, 0xF029⟩
  | .ldB _ => ⟨0xF0FF, 0xF033⟩
  | .ldMemVx _ => ⟨0xF0FF, 0xF055⟩
  | .ldVxMem _ => ⟨0xF0FF, 0xF065⟩

/-- The 23 rows in the source's order (30_encoding.md R66). -/
def opcodeTable : List OpcodeRow :=
  [⟨0xFFFF, 0x00E0⟩, ⟨0xFFFF, 0x00EE⟩, ⟨0xF000, 0x1000⟩, ⟨0xF000, 0x2000⟩, ⟨0xF000, 0x3000⟩,
   ⟨0xF000, 0x4000⟩, ⟨0xF000, 0x6000⟩, ⟨0xF000, 0x7000⟩] ++
  [⟨0xF00F, 0x8000⟩, ⟨0xF00F, 0x8002⟩, ⟨0xF00F, 0x8003⟩, ⟨0xF00F, 0x8004⟩, ⟨0xF000, 0xA000⟩,
   ⟨0xF000, 0xC000⟩, ⟨0xF000, 0xD000⟩] ++
  [⟨0xF0FF, 0xF007⟩, ⟨0xF0FF, 0xF015⟩, ⟨0xF0FF, 0xF018⟩, ⟨0xF0FF, 0xF01E⟩, ⟨0xF0FF, 0xF029⟩,
   ⟨0xF0FF, 0xF033⟩, ⟨0xF0FF, 0xF055⟩, ⟨0xF0FF, 0xF065⟩]

end Sys2Proof
end

