-- ==== Sys2Proof/Config.lean ====
section
/-! DEFINITION. What is fixed for the machine: the parameters of 00_scope.md R1, the default of the
parameter `FONT` (10_state.md R22), and the one free value, the random byte (42_register_alu.md R127). -/

namespace Sys2Proof

/-- `MEM_SIZE`: valid addresses are 0x000 to 0xFFF (00_scope.md R1, 20_memory.md R40). -/
@[simp] abbrev Config.memSize : Nat := 0x1000

/-- The highest valid address (20_memory.md R53). -/
@[simp] abbrev Config.maxAddr : Nat := 0x0FFF

/-- `STACK_CAP`: the call stack's capacity (00_scope.md R1). -/
@[simp] abbrev Config.stackCap : Nat := 15

/-- `FONT_BASE`: the address of glyph 0 (00_scope.md R1). -/
@[simp] abbrev Config.fontBase : Nat := 0x000

/-- `GLYPH_BYTES`: bytes in one font glyph (00_scope.md R1). -/
@[simp] abbrev Config.glyphBytes : Nat := 5

/-- `PROG_BASE`: the load address and the reset value of `PC` (00_scope.md R1). -/
@[simp] abbrev Config.progBase : Nat := 0x200

/-- `PROG_MAX`: the largest program image in bytes (00_scope.md R1). -/
@[simp] abbrev Config.progMax : Nat := 3584

/-- The parameter `FONT`: 16 glyphs of five bytes (00_scope.md R1). -/
abbrev Font := Vector Byte 80

/-- The default glyphs, digit by digit, as 10_state.md R22 tabulates them.
PRESUMED (log 3; unsafe): the bytes are the spec's default from general knowledge, not the source's. -/
def Config.fontBytes : List Byte :=
  [0xF0, 0x90, 0x90, 0x90, 0xF0] ++
  [0x20, 0x60, 0x20, 0x20, 0x70] ++
  [0xF0, 0x10, 0xF0, 0x80, 0xF0] ++
  [0xF0, 0x10, 0xF0, 0x10, 0xF0] ++
  [0x90, 0x90, 0xF0, 0x10, 0x10] ++
  [0xF0, 0x80, 0xF0, 0x10, 0xF0] ++
  [0xF0, 0x80, 0xF0, 0x90, 0xF0] ++
  [0xF0, 0x10, 0x20, 0x40, 0x40] ++
  [0xF0, 0x90, 0xF0, 0x90, 0xF0] ++
  [0xF0, 0x90, 0xF0, 0x10, 0xF0] ++
  [0xF0, 0x90, 0xF0, 0x90, 0x90] ++
  [0xE0, 0x90, 0xE0, 0x90, 0xE0] ++
  [0xF0, 0x80, 0x80, 0x80, 0xF0] ++
  [0xE0, 0x90, 0x90, 0x90, 0xE0] ++
  [0xF0, 0x80, 0xF0, 0x80, 0xF0] ++
  [0xF0, 0x80, 0xF0, 0x80, 0x80]

/-- The default of the parameter `FONT` (10_state.md R22). A claim that must not depend on the bytes
speaks of `hostReset font`, for every `font`, or of an arbitrary state. -/
def Config.font : Font := ⟨Config.fontBytes.toArray, rfl⟩

/-- The random source: the byte that the `n`-th execution of Cxkk draws (42_register_alu.md R127, the
port `rnd` of 10_state.md R34). A FREE VALUE (log 8; safe): opaque, so whatever is proved holds for
every sequence of draws. -/
opaque Config.draw8 : Nat → Byte

end Sys2Proof
end

