-- ==== Sys2Proof/Machine/State.lean ====
section
/-! DEFINITION. The machine's state (10_state.md section 1), its faults' codes, and the state after
reset (10_state.md R32, 70_reset_and_hazards.md R231). -/

namespace Sys2Proof.Machine

/-- What stops the MODEL. There is no constructor: "It never gets stuck and never refuses"
(40_cycle.md R86). The hardware's own faults are not stops of the model: a fault's entry is described
(60_exceptions.md R205), so a cycle that raises one answers a next state, the Halted one, with the
fault report in `faultCode`, `faultPc`, `faultOpcode`, `faultAddr` and `faultCycle` (log 6; safe). -/
inductive Fault where
deriving DecidableEq, Repr

/-- Why the model gives an instruction no meaning. -/
inductive Refusal where
  /-- Said by an arm of `exec` whose instruction has no meaning yet; no arm says it now (safe). -/
  | notModelled (mnemonic : String)
deriving DecidableEq, Repr

/-- The values of `FAULT_CODE` (60_exceptions.md R200); their numbers are `FaultCode.bits`. -/
inductive FaultCode where
  /-- 0: the machine has not faulted. -/
  | none
  /-- 1: decode met a word of no pattern (R201). -/
  | unknownInstruction
  /-- 2: CALL with 15 entries held (R202). -/
  | stackOverflow
  /-- 3: RET with none held (R203). -/
  | stackUnderflow
  /-- 4: an access above 0x0FFF (R204). -/
  | addressOutOfRange
  /-- 5: a load of more than 3584 bytes (70_reset_and_hazards.md R233). -/
  | programTooLarge
deriving DecidableEq, Repr

/-- What a cycle can raise (60_exceptions.md R200), with the address an AddressOutOfRange reports. -/
inductive RunFault where
  /-- Raised by decode. -/
  | unknownInstruction
  /-- Raised by CALL. -/
  | stackOverflow
  /-- Raised by RET. -/
  | stackUnderflow
  /-- Raised by the fetch, DRW, LD B, LD [I] and LD Vx,[I]; `addr` is the lowest offending address. -/
  | addressOutOfRange (addr : Nat)
deriving DecidableEq, Repr

/-- `MEM` (10_state.md R25): the cells that differ from their reset contents, by rising address. -/
abbrev Memory := List Host.Cell

/-- `FB` (10_state.md R26): 32 rows of 64 pixels. Column `c` of a row is bit `63 - c`, the leftmost
pixel in the most significant bit, as in the packed view (10_state.md R27). -/
abbrev Framebuffer := Vector (BitVec 64) 32

/-- Everything the core holds (10_state.md section 1). -/
structure State where
  /-- `V0`..`VF` (10_state.md R10). -/
  v : Vector Byte 16
  /-- The index register `I` (10_state.md R19). -/
  i : Word
  /-- The program counter (10_state.md R15). -/
  pc : Word
  /-- The delay timer (10_state.md R20). -/
  dt : Byte
  /-- The sound timer (10_state.md R20). -/
  st : Byte
  /-- The live entries of `STACK`, the newest first; `SP` is the length (10_state.md R23, log 7). -/
  stack : List Word
  /-- `MEM` (10_state.md R25). -/
  mem : Memory
  /-- `FB` (10_state.md R26). -/
  fb : Framebuffer
  /-- `HALTED` (10_state.md R28). -/
  halted : Bool
  /-- `FAULT_CODE` (10_state.md R29). -/
  faultCode : FaultCode
  /-- `FAULT_PC` (10_state.md R29). -/
  faultPc : Word
  /-- `FAULT_OPCODE` (10_state.md R29). -/
  faultOpcode : Word
  /-- `FAULT_ADDR` (10_state.md R29). -/
  faultAddr : Word
  /-- `FAULT_CYCLE` (10_state.md R29). -/
  faultCycle : Nat
  /-- `CYCLE` (10_state.md R31). -/
  cycle : Nat
  /-- `load_error` (10_state.md R30, 70_reset_and_hazards.md R233). -/
  loadError : Bool
  /-- The model's own field: how many bytes the random source has given (log 8). -/
  draws : Nat
deriving DecidableEq, Repr

/-- The state after a reset with the default font and the empty program (10_state.md R32,
70_reset_and_hazards.md R231, R234). `PC`, `HALTED` and the memory are the source's; the zeros of `V`,
`I`, `DT`, `ST` and `FB` are the spec's decision D2 (log 1; unsafe), those of the report, `CYCLE` and
`load_error` its decisions D14 and D15 (log 2); `draws` is the model's (log 8). -/
def State.reset : State where
  v := Vector.replicate 16 0
  i := 0
  pc := 0x0200
  dt := 0
  st := 0
  stack := []
  mem := []
  fb := Vector.replicate 32 0
  halted := false
  faultCode := .none
  faultPc := 0
  faultOpcode := 0
  faultAddr := 0
  faultCycle := 0
  cycle := 0
  loadError := false
  draws := 0

end Sys2Proof.Machine
end

