-- ==== Sys2Proof/Machine/Memory.lean ====
section
/-! DEFINITION. Memory cells: what an unlisted address reads as, one byte's read and write, the
canonical form, and the bus operations with the range check (20_memory.md sections 2 and 3). -/

namespace Sys2Proof.Machine

/-! ## Cells -/

/-- What an address that the list does not name reads as: its reset contents, the font at
0x000..0x04F and zero above (10_state.md R21). -/
def Memory.unlisted (a : Nat) : Byte := (Config.font[a]?).getD 0

/-- The byte at an address. -/
def Memory.read : Memory → Nat → Byte
  | [], a => Memory.unlisted a
  | (k, b) :: rest, a => if k = a then b else Memory.read rest a

/-- The list's entry for a byte at an address: none when the byte is what an unlisted address reads as. -/
def Memory.entry (a : Nat) (b : Byte) : Memory := if b = Memory.unlisted a then [] else [(a, b)]

/-- The memory with one byte changed, in canonical form. -/
def Memory.write : Memory → Nat → Byte → Memory
  | [], a, b => Memory.entry a b
  | (k, c) :: rest, a, b =>
    if k < a then (k, c) :: Memory.write rest a b
    else if k = a then Memory.entry a b ++ rest
    else Memory.entry a b ++ (k, c) :: rest

/-- Store bytes one after another from an address up. -/
def Memory.writeList (m : Memory) (a : Nat) : List Byte → Memory
  | [] => m
  | b :: bs => Memory.writeList (m.write a b) (a + 1) bs

/-- The canonical form: addresses strictly rise, each exists (20_memory.md R40), and no entry holds
what its address reads as unlisted. -/
abbrev Memory.wf (m : Memory) : Prop :=
  (m.map Prod.fst).Pairwise (· < ·) ∧ ∀ c ∈ m, c.1 < Config.memSize ∧ c.2 ≠ Memory.unlisted c.1

/-! ## The bus: an access above 0x0FFF gives the lowest offending address instead of a value -/

/-- `MemRead(addr, 1)` (20_memory.md R42). -/
def memRead8 (m : Memory) (a : Nat) : Except Nat Byte :=
  if a > Config.maxAddr then .error a else .ok (m.read a)

/-- `MemWrite(addr, 1, v)` (20_memory.md R43). -/
def memWrite8 (m : Memory) (a : Nat) (b : Byte) : Except Nat Memory :=
  if a > Config.maxAddr then .error a else .ok (m.write a b)

/-- The bytes of a 16-bit value at two addresses, high byte first (20_memory.md R44, R47). -/
def Memory.read16 (m : Memory) (a : Nat) : Word := joinBytes (m.read a) (m.read (a + 1))

/-- Both bytes stored, high byte first (20_memory.md R45). -/
def Memory.write16 (m : Memory) (a : Nat) (w : Word) : Memory :=
  (m.write a (hiByte w)).write (a + 1) (loByte w)

/-- `MemRead(addr, 2)` (20_memory.md R44). -/
def memRead16 (m : Memory) (a : Nat) : Except Nat Word :=
  if a > Config.maxAddr then .error a
  else if a + 1 > Config.maxAddr then .error (a + 1)
  else .ok (m.read16 a)

/-- `MemWrite(addr, 2, v)`: both checks come before any write; no instruction uses it (20_memory.md R45). -/
def memWrite16 (m : Memory) (a : Nat) (w : Word) : Except Nat Memory :=
  if a > Config.maxAddr then .error a
  else if a + 1 > Config.maxAddr then .error (a + 1)
  else .ok (m.write16 a w)

/-- The range check of an access to `n` bytes from `a`: the lowest address above
0x0FFF among them, if any (60_exceptions.md R204). -/
def spanFault (a n : Nat) : Option Nat :=
  if 0 < n ∧ a + n - 1 > Config.maxAddr then some (max a 0x1000) else none

/-- Read `n` bytes from `a`; every address is checked first (44_display.md R163). -/
def readSpan (m : Memory) (a n : Nat) : Except Nat (List Byte) :=
  match spanFault a n with
  | some bad => .error bad
  | none => .ok ((List.range n).map fun k => m.read (a + k))

/-- Store bytes from `a` up; every address is checked before any byte is written (43_index_and_memory.md R143). -/
def writeSpan (m : Memory) (a : Nat) (bs : List Byte) : Except Nat Memory :=
  match spanFault a bs.length with
  | some bad => .error bad
  | none => .ok (m.writeList a bs)

end Sys2Proof.Machine
end

