-- ==== Sys2Proof/Machine/Operands.lean ====
section
/-! DEFINITION. The operand forms (30_encoding.md R63, 43_index_and_memory.md R146): registers, the
12-bit absolute address, the address formed from `I`, a glyph's address, decimal digits. -/

namespace Sys2Proof.Machine

/-- `V[x]` (10_state.md R10). -/
def State.getV (s : State) (x : Reg) : Byte := s.v[x.val]

/-- `zext_16(nnn)` (30_encoding.md R63). -/
def absAddr (nnn : BitVec 12) : Word := nnn.setWidth 16

/-- The effective address `I + 0` on unbounded integers: never reduced (43_index_and_memory.md R146;
decision D4, log 28). -/
def State.indexAddr (s : State) : Nat := s.i.toNat

/-- `V[x] * 5`, at most 1275, in 16 bits; `V[x]` is not masked (43_index_and_memory.md R142; decision D9,
log 15). -/
def glyphAddr (b : Byte) : Word := BitVec.ofNat 16 (Config.fontBase + b.toNat * Config.glyphBytes)

/-- `v div 100`, `(v div 10) mod 10`, `v mod 10`, one byte each (43_index_and_memory.md R143). -/
def decimalDigits (b : Byte) : List Byte :=
  [BitVec.ofNat 8 (b.toNat / 100), BitVec.ofNat 8 (b.toNat / 10 % 10), BitVec.ofNat 8 (b.toNat % 10)]

end Sys2Proof.Machine
end

