-- ==== Sys2Proof/Machine/Ops.lean ====
section
/-! DEFINITION. The named operations over the state: register writes, the program counter's advance, the
call stack, taking a fault, the countdown and the fetch. -/

namespace Sys2Proof.Machine

/-! ## Registers -/

/-- `V[x] <- b`; registers are independent (10_state.md R10, R11). -/
def State.setV (s : State) (x : Reg) (b : Byte) : State := { s with v := s.v.set x.val b }

/-- `I <- w` (10_state.md R19). -/
def State.setI (s : State) (w : Word) : State := { s with i := w }

/-- `PC <- w` (10_state.md R16). -/
def State.setPc (s : State) (w : Word) : State := { s with pc := w }

/-- `PC <- PC + 2` (10_state.md R16; 16-bit arithmetic, which never wraps in a run: R18, log 10). -/
def State.advance (s : State) : State := { s with pc := s.pc + 2 }

/-- `PC <- PC + 4`: the skip (10_state.md R16, 30_encoding.md R70). -/
def State.skip (s : State) : State := { s with pc := s.pc + 4 }

/-- `DT <- b` (45_timers.md R182). -/
def State.setDt (s : State) (b : Byte) : State := { s with dt := b }

/-- `ST <- b` (45_timers.md R183). -/
def State.setSt (s : State) (b : Byte) : State := { s with st := b }

/-- The memory replaced. -/
def State.setMem (s : State) (m : Memory) : State := { s with mem := m }

/-- The framebuffer replaced. -/
def State.setFb (s : State) (d : Framebuffer) : State := { s with fb := d }

/-- `draw8()`: the byte of this draw, a free value (42_register_alu.md R127, log 8). -/
def State.drawn (s : State) : Byte := Config.draw8 s.draws

/-- A draw has been made: the next one is a fresh value (42_register_alu.md R127). -/
def State.noteDraw (s : State) : State := { s with draws := s.draws + 1 }

/-! ## The call stack -/

/-- `SP` (10_state.md R23). -/
def State.sp (s : State) : Nat := s.stack.length

/-- `STACK[j]` for `j < SP`, `STACK[0]` the oldest (10_state.md R23); dead entries do not exist (log 7). -/
def State.stackEntry (s : State) (j : Nat) : Option Word := s.stack.reverse[j]?

/-- `Push(v)`; `none` when 15 entries are held, and then nothing is written (41_control_transfer.md R100). -/
def State.push (s : State) (w : Word) : Option State :=
  if s.stack.length ≥ Config.stackCap then none else some { s with stack := w :: s.stack }

/-- `Pop()`; `none` when the stack is empty (41_control_transfer.md R101). -/
def State.pop (s : State) : Option (Word × State) :=
  match s.stack with
  | [] => none
  | w :: rest => some (w, { s with stack := rest })

/-! ## Taking a fault -/

/-- The number of a fault code (60_exceptions.md R200; decision D13, log 18). -/
def FaultCode.bits : FaultCode → BitVec 3
  | .none => 0
  | .unknownInstruction => 1
  | .stackOverflow => 2
  | .stackUnderflow => 3
  | .addressOutOfRange => 4
  | .programTooLarge => 5

/-- The code of a fault (60_exceptions.md R200). -/
def RunFault.code : RunFault → FaultCode
  | .unknownInstruction => .unknownInstruction
  | .stackOverflow => .stackOverflow
  | .stackUnderflow => .stackUnderflow
  | .addressOutOfRange _ => .addressOutOfRange

/-- What `FAULT_ADDR` records: the address of an AddressOutOfRange, else 0 (60_exceptions.md R205). -/
def RunFault.addr : RunFault → Word
  | .addressOutOfRange a => BitVec.ofNat 16 a
  | .unknownInstruction | .stackOverflow | .stackUnderflow => 0

/-- `raise F(info)` (60_exceptions.md R205): the report is written and the machine halts; nothing else
changes, `PC` included. `opcode` is the fetched word, 0 for a fetch fault. There is no return from a
fault (60_exceptions.md R212): only `hostReset` leaves Halted. -/
def State.raise (s : State) (f : RunFault) (opcode : Word) : State :=
  { s with
    faultCode := f.code
    faultPc := s.pc
    faultOpcode := opcode
    faultAddr := f.addr
    faultCycle := s.cycle
    halted := true }

/-! ## The parts of a cycle -/

/-- The machine runs: it is not Halted and its load succeeded (70_reset_and_hazards.md R240). -/
def State.running (s : State) : Bool := !s.halted && !s.loadError

/-- One timer's countdown: decremented while positive, never below 0 (45_timers.md R180). -/
def countdown (t : Byte) : Byte := if t > 0 then t - 1 else t

/-- Steps 1 and 2 of a cycle: `CYCLE` counts and both timers count down (40_cycle.md R80, R81). -/
def State.beginCycle (s : State) : State :=
  { s with cycle := s.cycle + 1, dt := countdown s.dt, st := countdown s.st }

/-- Step 3 of a cycle, `MemRead(PC, 2)` (20_memory.md R46). -/
def State.fetch (s : State) : Except Nat Word := memRead16 s.mem s.pc.toNat

/-- The same state made to run, at a `PC` that can be fetched from: the one it has, or 0x0200 where the
one it has cannot (20_memory.md R46). Used by `withFetchWord` alone (log 30). -/
def State.madeFetchable (s : State) : State :=
  { s with
    halted := false
    loadError := false
    pc := if s.pc.toNat + 1 > Config.maxAddr then BitVec.ofNat 16 Config.progBase else s.pc }

end Sys2Proof.Machine
end

