-- ==== Sys2Proof/Machine/ControlTransfer.lean ====
section
/-! DEFINITION. 00EE, 1nnn, 2nnn, 3xkk, 4xkk (41_control_transfer.md section 2). In each meaning `s.pc` is
the address of the instruction itself (10_state.md R15). -/

namespace Sys2Proof.Machine

/-- RET (41_control_transfer.md R102): the popped value goes to `PC` with no adjustment. -/
def execRet (s : State) : Host.Outcome State Fault Refusal :=
  match s.pop with
  | none => .next (s.raise .stackUnderflow (encode .ret))
  | some (w, t) => .next (t.setPc w)

/-- JP nnn (41_control_transfer.md R103). -/
def execJp (nnn : BitVec 12) (s : State) : Host.Outcome State Fault Refusal :=
  .next (s.setPc (absAddr nnn))

/-- CALL nnn (41_control_transfer.md R104): the return address `PC + 2` is pushed (decision D19, log 20). -/
def execCall (nnn : BitVec 12) (s : State) : Host.Outcome State Fault Refusal :=
  match s.push (s.pc + 2) with
  | none => .next (s.raise .stackOverflow (encode (.call nnn)))
  | some t => .next (t.setPc (absAddr nnn))

/-- SE Vx, kk (41_control_transfer.md R105). -/
def execSe (x : Reg) (kk : Byte) (s : State) : Host.Outcome State Fault Refusal :=
  if s.getV x = kk then .next s.skip else .next s.advance

/-- SNE Vx, kk (41_control_transfer.md R106). -/
def execSne (x : Reg) (kk : Byte) (s : State) : Host.Outcome State Fault Refusal :=
  if s.getV x ≠ kk then .next s.skip else .next s.advance

end Sys2Proof.Machine
end

