-- ==== Sys2Proof/Machine/Flags.lean ====
section
/-! DEFINITION. The two flags that an instruction writes into VF (10_state.md R13): the carry of 8xy4 and
the collision of Dxyn. No other flag exists. -/

namespace Sys2Proof.Machine

/-- The sum of two bytes on unbounded integers, reduced mod 256 (42_register_alu.md R125). -/
def sumMod256 (a b : Byte) : Byte := BitVec.ofNat 8 ((a.toNat + b.toNat) % 256)

/-- 1 when the unwrapped sum exceeds 255, else 0 (42_register_alu.md R126). -/
def carryFlag (a b : Byte) : Byte := if a.toNat + b.toNat > 255 then 1 else 0

/-- 1 when the blit collided, else 0 (44_display.md R163). -/
def collisionFlag (collided : Bool) : Byte := if collided then 1 else 0

end Sys2Proof.Machine
end

