-- ==== Sys2Proof/Machine/Framebuffer.lean ====
section
/-! DEFINITION. The framebuffer's pixels, its packed view, and the XOR blit with its collision detector
(10_state.md R26, R27; 44_display.md R161 to R166). -/

namespace Sys2Proof.Machine

/-- `FB[row][col]` (10_state.md R26). -/
def Framebuffer.pixel (d : Framebuffer) (row : Fin 32) (col : Fin 64) : Bool :=
  d[row.val].getLsbD (63 - col.val)

/-- `FB[row][col] <- FB[row][col] ^ 1`. -/
def Framebuffer.flip (d : Framebuffer) (row : Fin 32) (col : Fin 64) : Framebuffer :=
  d.set row.val (d[row.val] ^^^ BitVec.twoPow 64 (63 - col.val))

/-- Every pixel 0 (44_display.md R160). -/
def Framebuffer.clear : Framebuffer := Vector.replicate 32 0

/-- Byte `k` of the packed view `FBP`: row `k div 8`, columns `8·(k mod 8)` and the seven after it, the
first in bit 7 (10_state.md R27; decision D11, log 16). -/
def Framebuffer.packedByte (d : Framebuffer) (k : Fin 256) : Byte :=
  (d[k.val / 8]'(by omega)).extractLsb' (56 - 8 * (k.val % 8)) 8

/-- The framebuffer after a blit, and whether it collided. -/
structure BlitResult where
  /-- The pixels. -/
  fb : Framebuffer
  /-- Whether a pixel that was 1 met a sprite bit 1 (44_display.md R164). -/
  collided : Bool
deriving DecidableEq, Repr

/-- Sprite pixel `c` of a row byte: `b[7 - c]`, bit 7 leftmost (44_display.md R161; decision D10, log 16). -/
def spritePixel (b : Byte) (c : Nat) : Bool := b.getLsbD (7 - c)

/-- `(vy + r) mod 32` (44_display.md R162). -/
def spriteRow (vy : Byte) (r : Nat) : Fin 32 := ⟨(vy.toNat + r) % 32, Nat.mod_lt _ (by decide)⟩

/-- `(vx + c) mod 64` (44_display.md R162). -/
def spriteCol (vx : Byte) (c : Nat) : Fin 64 := ⟨(vx.toNat + c) % 64, Nat.mod_lt _ (by decide)⟩

/-- One pixel of the blit: the body of the inner loop of 44_display.md R163. -/
def blitPixel (vx vy : Byte) (r : Nat) (b : Byte) (acc : BlitResult) (c : Nat) : BlitResult :=
  if spritePixel b c then
    { fb := acc.fb.flip (spriteRow vy r) (spriteCol vx c)
      collided := acc.collided || acc.fb.pixel (spriteRow vy r) (spriteCol vx c) }
  else acc

/-- One row of the blit: columns 0 to 7 of row byte `b`, the inner loop of 44_display.md R163. -/
def blitRow (vx vy : Byte) (r : Nat) (b : Byte) (acc : BlitResult) : BlitResult :=
  (List.range 8).foldl (blitPixel vx vy r b) acc

/-- The rows of a sprite from row `r` on: the outer loop of 44_display.md R163. -/
def blitRows (vx vy : Byte) (r : Nat) : List Byte → BlitResult → BlitResult
  | [], acc => acc
  | b :: bs, acc => blitRows vx vy (r + 1) bs (blitRow vx vy r b acc)

/-- The blit of a whole sprite, with no collision to begin with (44_display.md R163). -/
def blit (d : Framebuffer) (vx vy : Byte) (sprite : List Byte) : BlitResult :=
  blitRows vx vy 0 sprite { fb := d, collided := false }

end Sys2Proof.Machine
end

