-- ==== Sys2Proof/Machine/Display.lean ====
section
/-! DEFINITION. 00E0 and Dxyn (44_display.md section 2). -/

namespace Sys2Proof.Machine

/-- CLS (44_display.md R160). -/
def execCls (s : State) : Host.Outcome State Fault Refusal :=
  .next (s.setFb Framebuffer.clear).advance

/-- DRW Vx, Vy, n (44_display.md R163): the coordinates and every source byte are read first, the
collision goes to VF last. -/
def execDrw (x y : Reg) (n : Nat) (s : State) : Host.Outcome State Fault Refusal :=
  match readSpan s.mem s.indexAddr n with
  | .error a => .next (s.raise (.addressOutOfRange a) (encode (.drw x y n)))
  | .ok sprite =>
    let r := blit s.fb (s.getV x) (s.getV y) sprite
    .next ((s.setFb r.fb).setV Reg.vf (collisionFlag r.collided)).advance

end Sys2Proof.Machine
end

