-- ==== Sys2Proof/Machine/IndexMemory.lean ====
section
/-! DEFINITION. Annn, Fx1E, Fx29, Fx33, Fx55, Fx65 (43_index_and_memory.md). No load or store changes `I`
(R146). -/

namespace Sys2Proof.Machine

/-- LD I, nnn (43_index_and_memory.md R140). -/
def execLdI (nnn : BitVec 12) (s : State) : Host.Outcome State Fault Refusal :=
  .next (s.setI (absAddr nnn)).advance

/-- ADD I, Vx (43_index_and_memory.md R141): mod 65536, no flag (decision D8, log 14). -/
def execAddI (x : Reg) (s : State) : Host.Outcome State Fault Refusal :=
  .next (s.setI (BitVec.ofNat 16 ((s.i.toNat + (s.getV x).toNat) % 65536))).advance

/-- LD F, Vx (43_index_and_memory.md R142). -/
def execLdF (x : Reg) (s : State) : Host.Outcome State Fault Refusal :=
  .next (s.setI (glyphAddr (s.getV x))).advance

/-- LD B, Vx (43_index_and_memory.md R143): all three addresses are checked before any byte is written. -/
def execLdB (x : Reg) (s : State) : Host.Outcome State Fault Refusal :=
  match writeSpan s.mem s.indexAddr (decimalDigits (s.getV x)) with
  | .error a => .next (s.raise (.addressOutOfRange a) (encode (.ldB x)))
  | .ok m => .next (s.setMem m).advance

/-- LD [I], Vx (43_index_and_memory.md R144): one register, one byte (decision D24, log 24). -/
def execLdMemVx (x : Reg) (s : State) : Host.Outcome State Fault Refusal :=
  match memWrite8 s.mem s.indexAddr (s.getV x) with
  | .error a => .next (s.raise (.addressOutOfRange a) (encode (.ldMemVx x)))
  | .ok m => .next (s.setMem m).advance

/-- LD Vx, [I] (43_index_and_memory.md R145): one byte, one register (decision D24, log 24). -/
def execLdVxMem (x : Reg) (s : State) : Host.Outcome State Fault Refusal :=
  match memRead8 s.mem s.indexAddr with
  | .error a => .next (s.raise (.addressOutOfRange a) (encode (.ldVxMem x)))
  | .ok b => .next (s.setV x b).advance

end Sys2Proof.Machine
end

