-- ==== Sys2Proof/Machine/RegisterAlu.lean ====
section
/-! DEFINITION. 6xkk, 7xkk, 8xy0, 8xy2, 8xy3, 8xy4, Cxkk (42_register_alu.md section 2). -/

namespace Sys2Proof.Machine

/-- LD Vx, kk (42_register_alu.md R120). -/
def execLdImm (x : Reg) (kk : Byte) (s : State) : Host.Outcome State Fault Refusal :=
  .next (s.setV x kk).advance

/-- ADD Vx, kk (42_register_alu.md R121): no flag is written. -/
def execAddImm (x : Reg) (kk : Byte) (s : State) : Host.Outcome State Fault Refusal :=
  .next (s.setV x (sumMod256 (s.getV x) kk)).advance

/-- LD Vx, Vy (42_register_alu.md R122). -/
def execLdReg (x y : Reg) (s : State) : Host.Outcome State Fault Refusal :=
  .next (s.setV x (s.getV y)).advance

/-- AND Vx, Vy (42_register_alu.md R123): VF is not cleared. -/
def execAndReg (x y : Reg) (s : State) : Host.Outcome State Fault Refusal :=
  .next (s.setV x (s.getV x &&& s.getV y)).advance

/-- XOR Vx, Vy (42_register_alu.md R124): VF is not cleared. -/
def execXorReg (x y : Reg) (s : State) : Host.Outcome State Fault Refusal :=
  .next (s.setV x (s.getV x ^^^ s.getV y)).advance

/-- ADD Vx, Vy (42_register_alu.md R126): both operands are read first, the carry goes to VF last
(10_state.md R14). -/
def execAddReg (x y : Reg) (s : State) : Host.Outcome State Fault Refusal :=
  .next ((s.setV x (sumMod256 (s.getV x) (s.getV y))).setV Reg.vf
    (carryFlag (s.getV x) (s.getV y))).advance

/-- What RND does with a draw `r` (42_register_alu.md R128). -/
def rndWith (r : Byte) (x : Reg) (kk : Byte) (s : State) : State :=
  (s.setV x (r &&& kk)).advance

/-- RND Vx, kk (42_register_alu.md R128): the draw is a free value, and the next one is fresh (R127, log 8). -/
def execRnd (x : Reg) (kk : Byte) (s : State) : Host.Outcome State Fault Refusal :=
  .next (rndWith s.drawn x kk s).noteDraw

end Sys2Proof.Machine
end

