-- ==== Sys2Proof/Machine/Timers.lean ====
section
/-! DEFINITION. Fx07, Fx15, Fx18 (45_timers.md section 2). The countdown of the cycle has already run
(40_cycle.md R81). -/

namespace Sys2Proof.Machine

/-- LD Vx, DT (45_timers.md R181). -/
def execLdVxDt (x : Reg) (s : State) : Host.Outcome State Fault Refusal :=
  .next (s.setV x s.dt).advance

/-- LD DT, Vx (45_timers.md R182). -/
def execLdDtVx (x : Reg) (s : State) : Host.Outcome State Fault Refusal :=
  .next (s.setDt (s.getV x)).advance

/-- LD ST, Vx (45_timers.md R183). -/
def execLdStVx (x : Reg) (s : State) : Host.Outcome State Fault Refusal :=
  .next (s.setSt (s.getV x)).advance

end Sys2Proof.Machine
end

