-- ==== Sys2Proof/Machine/Cycle.lean ====
section
/-! DEFINITION. One cycle of a Running machine (40_cycle.md R80). -/

namespace Sys2Proof.Machine

/-- Steps 4 and 5 of a cycle: decode the fetched word and run it, or raise UnknownInstruction
(40_cycle.md R80, 60_exceptions.md R201). -/
def runWord (w : Word) (s : State) : Host.Outcome State Fault Refusal :=
  match decode w with
  | .error _ => .next (s.raise .unknownInstruction w)
  | .ok i => exec i s

/-- `Cycle()` (40_cycle.md R80): count, count down, fetch, decode, execute. A fetch fault has no opcode
to record (20_memory.md R46). -/
def runCycle (s : State) : Host.Outcome State Fault Refusal :=
  match s.beginCycle.fetch with
  | .error a => .next (s.beginCycle.raise (.addressOutOfRange a) 0)
  | .ok w => runWord w s.beginCycle

end Sys2Proof.Machine
end

