-- ==== Sys2Proof/Machine/Step.lean ====
section
/-! DEFINITION. One tick (40_cycle.md R80, R85), and the host's way to place one instruction. -/

namespace Sys2Proof.Machine

/-- One `tick`: a cycle of a Running machine. On a Halted machine a tick does nothing (40_cycle.md R85),
nor on one whose load failed (70_reset_and_hazards.md R233). -/
def step (s : State) : Host.Outcome State Fault Refusal :=
  if s.running then runCycle s else .next s

/-- The state with the instruction whose bits are `w` at `PC`, so that the next step runs it; it stands
for a program load (log 5, log 30). The longest instruction has 16 bits. -/
def State.withFetchWord (s : State) (nbits w : Nat) : State :=
  let t := s.madeFetchable
  { t with mem := t.mem.write16 t.pc.toNat (BitVec.ofNat 16 (w % 2 ^ nbits)) }

end Sys2Proof.Machine
end

