-- ==== Sys2Proof/Machine/HostInterface.lean ====
section
/-! DEFINITION. What the host may do (70_reset_and_hazards.md R240): reset with a program (R231), tick, leave
the machine idle (60_exceptions.md R219), read the framebuffer, the status and the trace (10_state.md R30);
and a session of such actions. -/

namespace Sys2Proof.Machine

/-- What a reset gives: a machine to run, or a load error (70_reset_and_hazards.md R231, R233). -/
inductive ResetResult where
  /-- The load was accepted. -/
  | machine (s : State)
  /-- ProgramTooLarge: `s` never runs a cycle; only its `loadError` and `faultCode` mean anything. -/
  | loadFailed (s : State)
deriving DecidableEq, Repr

/-- `Reset(prog, L)` with the parameter `FONT` (70_reset_and_hazards.md R231). `unspecified` is what the
rest of a machine whose load failed holds, any state at all (R233, log 23). -/
def hostReset (font : Font) (prog : List Byte) (unspecified : State) : ResetResult :=
  if prog.length > Config.progMax then
    .loadFailed { unspecified with loadError := true, faultCode := .programTooLarge }
  else
    .machine { State.reset with
      mem := (Memory.writeList [] Config.fontBase font.toList).writeList Config.progBase prog }

/-- `fb_out`: the 256 packed bytes (10_state.md R27, R30). -/
def State.fbOut (s : State) : List Byte := (List.finRange 256).map s.fb.packedByte

/-- The status outputs of 10_state.md R30. -/
structure HostStatus where
  /-- `halted` -/
  halted : Bool
  /-- `fault_code`, 3 bits (60_exceptions.md R207). -/
  faultCode : BitVec 3
  /-- `fault_pc` -/
  faultPc : Word
  /-- `fault_opcode` -/
  faultOpcode : Word
  /-- `fault_addr` -/
  faultAddr : Word
  /-- `fault_cycle` -/
  faultCycle : Nat
  /-- `load_error` -/
  loadError : Bool
deriving DecidableEq, Repr

/-- The status outputs of a state; reading them changes nothing (70_reset_and_hazards.md R240). -/
def State.hostStatus (s : State) : HostStatus where
  halted := s.halted
  faultCode := s.faultCode.bits
  faultPc := s.faultPc
  faultOpcode := s.faultOpcode
  faultAddr := s.faultAddr
  faultCycle := s.faultCycle
  loadError := s.loadError

/-- The trace record of 40_cycle.md R88. -/
structure TraceRecord where
  /-- `CYCLE` -/
  cycle : Nat
  /-- `PC` -/
  pc : Word
  /-- the opcode -/
  opcode : Word
  /-- `V[0..15]` -/
  v : Vector Byte 16
  /-- `I` -/
  i : Word
  /-- `DT` -/
  dt : Byte
  /-- `ST` -/
  st : Byte
  /-- `SP` -/
  sp : Nat
deriving DecidableEq, Repr

/-- The record that the next tick emits when tracing is on: taken after the countdown and before the
execution. A cycle that ends at its fetch or its decode emits none: the event comes after step 4
(40_cycle.md R84, R88; DEDUCED, log 26). -/
def State.traceOf (s : State) : Option TraceRecord :=
  let t := s.beginCycle
  if s.running then
    match t.fetch with
    | .error _ => none
    | .ok w =>
      match decode w with
      | .error _ => none
      | .ok _ => some { cycle := t.cycle, pc := t.pc, opcode := w, v := t.v, i := t.i, dt := t.dt, st := t.st, sp := t.sp }
  else none

/-! ## Sessions -/

/-- One action of the host, between two cycles or to start one (70_reset_and_hazards.md R240). There is no
other: the host never writes memory, a register, the stack, a timer or the framebuffer. -/
inductive HostAction where
  /-- Let time pass without a tick: the idle wait between two ticks (60_exceptions.md R219), or a stop. -/
  | idle
  /-- Issue one tick. -/
  | tick
  /-- Read `fb_out`. -/
  | readFramebuffer
  /-- Read `halted`, the fault report and `load_error`. -/
  | readStatus
  /-- Read the trace record of the cycle that the next tick runs. -/
  | readTrace
  /-- Construct the machine anew with a font and a program; the state is as for `hostReset`. -/
  | reset (font : Font) (prog : List Byte) (unspecified : State)
deriving DecidableEq, Repr

/-- What an action gives back to the host. -/
inductive HostReply where
  /-- Nothing. -/
  | nothing
  /-- `fb_out` -/
  | framebuffer (bytes : List Byte)
  /-- `halted`, the fault report and `load_error` -/
  | status (status : HostStatus)
  /-- The trace record, if the next tick gets as far as emitting one. -/
  | trace (record : Option TraceRecord)
  /-- What a reset answers: `load_error`. -/
  | loadError (failed : Bool)
deriving DecidableEq, Repr

/-- The state that a reset leaves, loaded or not. -/
def ResetResult.state : ResetResult → State
  | .machine s => s
  | .loadFailed s => s

/-- The effect of an action on the core's state: a tick steps and a reset constructs; idling keeps all state
(60_exceptions.md R219) and so does reading (70_reset_and_hazards.md R240). -/
def hostAct (s : State) : HostAction → Host.Outcome State Fault Refusal
  | .tick => step s
  | .reset font prog u => .next (hostReset font prog u).state
  | .idle | .readFramebuffer | .readStatus | .readTrace => .next s

/-- What the host gets for an action at state `s`. -/
def hostReply (s : State) : HostAction → HostReply
  | .idle | .tick => .nothing
  | .readFramebuffer => .framebuffer s.fbOut
  | .readStatus => .status s.hostStatus
  | .readTrace => .trace s.traceOf
  | .reset font prog u => .loadError (hostReset font prog u).state.loadError

/-- A session: the host's actions one after another. -/
def hostSession : List HostAction → State → Host.Outcome State Fault Refusal
  | [], s => .next s
  | a :: rest, s =>
    match hostAct s a with
    | .next t => hostSession rest t
    | .fault r => .fault r
    | .refused r => .refused r

/-- Whether an action is a reset. -/
def HostAction.isReset : HostAction → Bool
  | .reset _ _ _ => true
  | .idle | .tick | .readFramebuffer | .readStatus | .readTrace => false

/-- How many ticks a session has. -/
def tickCount (acts : List HostAction) : Nat := acts.countP (· = .tick)

end Sys2Proof.Machine
end

