-- ==== Sys2Proof/Safety.lean ====
section
/-! DEFINITION. The terms that claims use: what the next tick runs, the machine's invariant, the states a run
reaches, a run with no fault, and the spec's tables of who writes what. -/

namespace Sys2Proof.Machine

/-! ## What the next tick does -/

/-- The instruction the next tick executes, if it gets as far as executing one (40_cycle.md R80). -/
def State.nextInstr (s : State) : Option Instr :=
  if s.running then
    match s.fetch with
    | .error _ => none
    | .ok w =>
      match decode w with
      | .error _ => none
      | .ok i => some i
  else none

/-! ## The invariant -/

/-- The fault report fits `HALTED` (60_exceptions.md R205, R207; 10_state.md R29): a machine that has not
halted reports nothing; a halted one reports a run-time fault of the instruction at `PC`, in the cycle
the counter shows, and an address exactly when the fault is an AddressOutOfRange, the address being
0x1000, `PC` or `I` and above 0x0FFF. -/
def State.ReportOk (s : State) : Prop :=
  if s.halted then
    s.faultPc = s.pc ∧ s.faultCycle = s.cycle ∧ 0 < s.cycle ∧
    s.faultCode ≠ .none ∧ s.faultCode ≠ .programTooLarge ∧
    (if s.faultCode = .addressOutOfRange then
      0x1000 ≤ s.faultAddr.toNat ∧ (s.faultAddr = 0x1000 ∨ s.faultAddr = s.pc ∨ s.faultAddr = s.i)
    else s.faultAddr = 0)
  else
    s.faultCode = .none ∧ s.faultPc = 0 ∧ s.faultOpcode = 0 ∧ s.faultAddr = 0 ∧ s.faultCycle = 0

/-- The machine's invariant: memory is canonical; `SP` is in 0..15 (10_state.md R23); a stack entry is a
return address that a CALL pushed, at most 0x1000, and `PC` is at most 0x1002 (10_state.md R18); the
report fits; the load succeeded. -/
structure State.Inv (s : State) : Prop where
  /-- Memory is in canonical form. -/
  mem : s.mem.wf
  /-- `SP` is at most 15. -/
  sp : s.sp ≤ Config.stackCap
  /-- Every live stack entry is at most 0x1000. -/
  entries : ∀ w ∈ s.stack, w.toNat ≤ 0x1000
  /-- `PC` never exceeds 0x1002. -/
  pc : s.pc.toNat ≤ 0x1002
  /-- The fault report fits. -/
  report : s.ReportOk
  /-- This machine was loaded. -/
  loaded : s.loadError = false

/-! ## Runs -/

/-- The states that some program, font and number of ticks reach from a reset (70_reset_and_hazards.md
R231, 40_cycle.md R80). -/
inductive State.Reachable : State → Prop where
  /-- A reset whose load was accepted. -/
  | reset (font : Font) (prog : List Byte) (u s : State) :
      hostReset font prog u = .machine s → State.Reachable s
  /-- One tick. -/
  | tick (s t : State) : State.Reachable s → step s = .next t → State.Reachable t

/-- A safe run: `k` ticks lead from `s` to `t` and no fault has been raised, so `t` still runs. A run that
ends in Halted is never safe (93_implementation_defined.md U5). -/
def SafeRun (k : Nat) (s t : State) : Prop := Host.Core.run Sys2Proof.core k s = .next t ∧ t.running = true

/-- `k` ticks from `s` to `t`, each of a running machine and none executing LD DT, Vx (45_timers.md R184:
"no other write to DT in between"). -/
inductive DelayRun : Nat → State → State → Prop where
  /-- No tick. -/
  | none (s : State) : DelayRun 0 s s
  /-- One more tick. -/
  | tick (k : Nat) (s t u : State) : DelayRun k s t → t.running = true →
      (∀ x, t.nextInstr ≠ some (.ldDtVx x)) → step t = .next u → DelayRun (k + 1) s u

/-! ## Sprites -/

/-- A lit pixel of a sprite falls on framebuffer pixel (`row`, `col`): the sprite has `n` rows from
address `base` and is drawn at (`vx`, `vy`) (44_display.md R161, R162). -/
def SpriteLights (m : Memory) (base : Nat) (vx vy : Byte) (n : Nat) (row : Fin 32) (col : Fin 64) : Prop :=
  ∃ r c : Nat, r < n ∧ c < 8 ∧ (vy.toNat + r) % 32 = row.val ∧ (vx.toNat + c) % 64 = col.val ∧
    (m.read (base + r)).getLsbD (7 - c) = true

end Sys2Proof.Machine

namespace Sys2Proof

open Machine

/-! ## The spec's tables -/

/-- The "writes" column of 10_state.md R12. -/
def Instr.writesV : Instr → Reg → Prop
  | .ldImm x _, r | .addImm x _, r | .ldReg x _, r | .andReg x _, r | .xorReg x _, r | .rnd x _, r
  | .ldVxDt x, r | .ldVxMem x, r => r = x
  | .addReg x _, r => r = x ∨ r = Reg.vf
  | .drw _ _ _, r => r = Reg.vf
  | .se _ _, _ | .sne _ _, _ | .ldDtVx _, _ | .ldStVx _, _ | .addI _, _ | .ldF _, _ | .ldB _, _
  | .ldMemVx _, _ | .cls, _ | .ret, _ | .jp _, _ | .call _, _ | .ldI _, _ => False

/-- The data bytes an instruction stores to, at state `s`: the write rows of 20_memory.md R49, as a number
of bytes from the address that the meanings use. -/
def Instr.storeSize : Instr → Nat
  | .ldB _ => 3
  | .ldMemVx _ => 1
  | .cls | .ret | .jp _ | .call _ | .se _ _ | .sne _ _ | .ldImm _ _ | .addImm _ _ | .ldReg _ _
  | .andReg _ _ | .xorReg _ _ | .addReg _ _ | .ldI _ | .rnd _ _ | .drw _ _ _ | .ldVxDt _ | .ldDtVx _
  | .ldStVx _ | .addI _ | .ldF _ | .ldVxMem _ => 0

/-- What an instruction can raise, at state `s`: the conditions of 60_exceptions.md R200 and R204. -/
def Instr.raises (s : State) : Instr → Option RunFault
  | .call _ => if 15 ≤ s.sp then some .stackOverflow else none
  | .ret => if s.sp = 0 then some .stackUnderflow else none
  | .drw _ _ n =>
    if 0 < n ∧ s.i.toNat + n - 1 > 0x0FFF then some (.addressOutOfRange (max s.i.toNat 0x1000)) else none
  | .ldB _ => if s.i.toNat + 2 > 0x0FFF then some (.addressOutOfRange (max s.i.toNat 0x1000)) else none
  | .ldMemVx _ | .ldVxMem _ =>
    if s.i.toNat > 0x0FFF then some (.addressOutOfRange s.i.toNat) else none
  | .cls | .jp _ | .se _ _ | .sne _ _ | .ldImm _ _ | .addImm _ _ | .ldReg _ _ | .andReg _ _
  | .xorReg _ _ | .addReg _ _ | .ldI _ | .rnd _ _ | .ldVxDt _ | .ldDtVx _ | .ldStVx _ | .addI _
  | .ldF _ => none

/-- Where a completed instruction leaves `PC` (10_state.md R16). -/
def Instr.pcAfter (s : State) : Instr → Word
  | .jp nnn | .call nnn => BitVec.ofNat 16 nnn.toNat
  | .ret => s.stack.headD 0
  | .se x kk => if s.v[x.val] = kk then s.pc + 4 else s.pc + 2
  | .sne x kk => if s.v[x.val] ≠ kk then s.pc + 4 else s.pc + 2
  | .cls | .ldImm _ _ | .addImm _ _ | .ldReg _ _ | .andReg _ _ | .xorReg _ _ | .addReg _ _ | .ldI _
  | .rnd _ _ | .drw _ _ _ | .ldVxDt _ | .ldDtVx _ | .ldStVx _ | .addI _ | .ldF _ | .ldB _
  | .ldMemVx _ | .ldVxMem _ => s.pc + 2

end Sys2Proof
end

