-- ==== Sys2Proof/Certificates/Slice0/Obligations.lean ====
section
/-! DEFINITION. The statements for the provers. -/

open Sys2Proof Sys2Proof.Machine

/-! ## Encoding -/

/-- One word of each family, written out from the patterns of 30_encoding.md R66, decodes to its
instruction, and words of no pattern do not (95_test_vectors.md section 2.0). -/
def Obligations.SampleWordsDecodeAsTheirPatternsSay : Prop :=
  decode 0x00EE#16 = .ok .ret ∧
  decode 0x2FFF#16 = .ok (.call 0xFFF) ∧
  decode 0x8124#16 = .ok (.addReg 1 2) ∧
  decode 0xF11E#16 = .ok (.addI 1) ∧
  decode 0xDFFF#16 = .ok (.drw 15 15 15) ∧
  decode 0xF107#16 = .ok (.ldVxDt 1) ∧
  decode 0x01E0#16 = .error (.unknownInstruction 0x01E0) ∧
  decode 0x8125#16 = .error (.unknownInstruction 0x8125)

/-- Decoding the word of a well-formed instruction gives the instruction back, every operand at every
value (30_encoding.md R64, R66). -/
def Obligations.DecodeOfEncodeIsTheInstruction : Prop :=
  ∀ i : Instr, i.WellFormed → decode (encode i) = .ok i

/-- A word that decodes gives a well-formed instruction whose encoding is that word: no bit of an
instruction word is ignored (30_encoding.md R62, R66). -/
def Obligations.EncodeOfDecodeIsTheWord : Prop :=
  ∀ (w : Word) (i : Instr), decode w = .ok i → i.WellFormed ∧ encode i = w

/-- A word decodes exactly when it matches a row of the opcode table, to an instruction of that row, and
no word matches two rows (30_encoding.md R64, R66; 95_test_vectors.md Q9). -/
def Obligations.RowsDecideWhatDecodes : Prop :=
  (∀ w : Word, (∃ i, decode w = .ok i) ↔ ∃ r ∈ opcodeTable, r.matches w = true) ∧
  (∀ (w : Word) (i : Instr), decode w = .ok i → i.row ∈ opcodeTable ∧ i.row.matches w = true) ∧
  (∀ (w : Word) (r r' : OpcodeRow), r ∈ opcodeTable → r' ∈ opcodeTable →
    r.matches w = true → r'.matches w = true → r = r')

/-- The illegal words are exactly those of the table of 30_encoding.md R68, and each is rejected by name. -/
def Obligations.IllegalWordsAreExactlyTheListedOnes : Prop :=
  ∀ w : Word, decode w = .error (.unknownInstruction w) ↔
    (w.toNat ≤ 0x0FFF ∧ w.toNat ≠ 0x00E0 ∧ w.toNat ≠ 0x00EE) ∨
    w.toNat / 0x1000 = 0x5 ∨
    (w.toNat / 0x1000 = 0x8 ∧ w.toNat % 16 ∈ [0x1, 0x5, 0x6, 0x7, 0x8, 0x9, 0xA, 0xB, 0xC, 0xD, 0xE, 0xF]) ∨
    w.toNat / 0x1000 = 0x9 ∨
    w.toNat / 0x1000 = 0xB ∨
    w.toNat / 0x1000 = 0xE ∨
    (w.toNat / 0x1000 = 0xF ∧ w.toNat % 256 ∉ [0x07, 0x15, 0x18, 0x1E, 0x29, 0x33, 0x55, 0x65])

/-! ## The cycle and the faults -/

/-- A tick of a running machine whose word at `PC` decodes runs that instruction, on the state after the
cycle count and the countdown (40_cycle.md R80, R81). -/
def Obligations.TickRunsTheDecodedInstruction : Prop :=
  ∀ (s : State) (i : Instr),
    s.halted = false → s.loadError = false → s.pc.toNat ≤ 0x0FFE →
    decode (s.mem.read s.pc.toNat ++ s.mem.read (s.pc.toNat + 1)) = .ok i →
    step s = exec i { s with
      cycle := s.cycle + 1
      dt := BitVec.ofNat 8 (s.dt.toNat - 1)
      st := BitVec.ofNat 8 (s.st.toNat - 1) }

/-- A tick of a running machine whose word at `PC` is illegal raises UnknownInstruction, after the count
and the countdown (60_exceptions.md R201, R205, R206; the report is the spec's decision D14, log 18). -/
def Obligations.TickOnAnIllegalWordHalts : Prop :=
  ∀ (s : State) (e : DecodeError),
    s.halted = false → s.loadError = false → s.pc.toNat ≤ 0x0FFE →
    decode (s.mem.read s.pc.toNat ++ s.mem.read (s.pc.toNat + 1)) = .error e →
    step s = .next { s with
      cycle := s.cycle + 1
      dt := BitVec.ofNat 8 (s.dt.toNat - 1)
      st := BitVec.ofNat 8 (s.st.toNat - 1)
      halted := true
      faultCode := .unknownInstruction
      faultPc := s.pc
      faultOpcode := s.mem.read s.pc.toNat ++ s.mem.read (s.pc.toNat + 1)
      faultAddr := 0
      faultCycle := s.cycle + 1 }

/-- A tick of a running machine whose `PC` is 0x0FFF or above raises AddressOutOfRange at the fetch: the
address is 0x1000 for `PC` = 0x0FFF and `PC` above, the opcode 0 (20_memory.md R46, 60_exceptions.md R204;
decisions D4 and D14, log 18 and log 28). -/
def Obligations.TickBeyondMemoryHaltsAtTheFetch : Prop :=
  ∀ s : State, s.halted = false → s.loadError = false → 0x0FFF ≤ s.pc.toNat →
    step s = .next { s with
      cycle := s.cycle + 1
      dt := BitVec.ofNat 8 (s.dt.toNat - 1)
      st := BitVec.ofNat 8 (s.st.toNat - 1)
      halted := true
      faultCode := .addressOutOfRange
      faultPc := s.pc
      faultOpcode := 0
      faultAddr := if s.pc = 0x0FFF then 0x1000 else s.pc
      faultCycle := s.cycle + 1 }

/-- Taking a fault writes the report and halts, and changes nothing else (60_exceptions.md R200, R205;
the report's contents are decisions D13 and D14, log 18). -/
def Obligations.RaiseWritesTheReportAndNothingElse : Prop :=
  ∀ (s : State) (w : Word) (a : Nat),
    s.raise .unknownInstruction w = { s with
      halted := true, faultCode := .unknownInstruction, faultPc := s.pc, faultOpcode := w, faultAddr := 0, faultCycle := s.cycle } ∧
    s.raise .stackOverflow w = { s with
      halted := true, faultCode := .stackOverflow, faultPc := s.pc, faultOpcode := w, faultAddr := 0, faultCycle := s.cycle } ∧
    s.raise .stackUnderflow w = { s with
      halted := true, faultCode := .stackUnderflow, faultPc := s.pc, faultOpcode := w, faultAddr := 0, faultCycle := s.cycle } ∧
    s.raise (.addressOutOfRange a) w = { s with
      halted := true, faultCode := .addressOutOfRange, faultPc := s.pc, faultOpcode := w, faultAddr := BitVec.ofNat 16 a, faultCycle := s.cycle } ∧
    [FaultCode.none, .unknownInstruction, .stackOverflow, .stackUnderflow, .addressOutOfRange,
      .programTooLarge].map FaultCode.bits = [0, 1, 2, 3, 4, 5]

/-- On a Halted machine a tick does nothing, nor on one whose load failed (40_cycle.md R85, decision D22,
log 22; 70_reset_and_hazards.md R233, decision D23, log 23). -/
def Obligations.StoppedMachineIgnoresTicks : Prop :=
  ∀ s : State, s.halted = true ∨ s.loadError = true → step s = .next s

/-- Every state has a successor: a step never gets stuck and never refuses (40_cycle.md R86). -/
def Obligations.EveryStateHasANextState : Prop := ∀ s : State, ∃ t, step s = .next t

/-- A cycle that raises a fault changes only `CYCLE`, the timers' countdown, `HALTED` and the report
(60_exceptions.md R206, decision D5, log 11; 95_test_vectors.md Q6). -/
def Obligations.FaultingCycleChangesNothingElse : Prop :=
  ∀ s t : State, s.halted = false → step s = .next t → t.halted = true →
    t = { s with
      cycle := s.cycle + 1
      dt := BitVec.ofNat 8 (s.dt.toNat - 1)
      st := BitVec.ofNat 8 (s.st.toNat - 1)
      halted := true
      faultCode := t.faultCode
      faultPc := t.faultPc
      faultOpcode := t.faultOpcode
      faultAddr := t.faultAddr
      faultCycle := t.faultCycle }

/-- The report names the faulting instruction's address, its word (0 when the fetch failed) and its cycle
(60_exceptions.md R205, R207, decision D14, log 18). The word is what was fetched although a meaning
computes it with the encoder (log 9). -/
def Obligations.ReportNamesTheFetchedWord : Prop :=
  ∀ s t : State, s.halted = false → step s = .next t → t.halted = true →
    t.faultPc = s.pc ∧ t.faultCycle = s.cycle + 1 ∧
    t.faultOpcode =
      if s.pc.toNat ≤ 0x0FFE then s.mem.read s.pc.toNat ++ s.mem.read (s.pc.toNat + 1) else 0

/-- An instruction faults exactly in the conditions that 60_exceptions.md R200 and R204 give it, with the
fault they name, and at most one (R209). -/
def Obligations.EachFaultHasItsOneCause : Prop :=
  ∀ (i : Instr) (s t : State), s.halted = false → exec i s = .next t →
    (∀ f, i.raises s = some f → t = s.raise f (encode i)) ∧
    (i.raises s = none → t.halted = false)

/-- A timer that its own instruction does not write goes down by one each cycle and stops at 0
(45_timers.md R180, 95_test_vectors.md Q4). -/
def Obligations.TimersOnlyCountDownUnlessWritten : Prop :=
  ∀ s t : State, s.running = true → step s = .next t →
    ((∀ x, s.nextInstr ≠ some (.ldDtVx x)) → t.dt.toNat = s.dt.toNat - 1) ∧
    ((∀ x, s.nextInstr ≠ some (.ldStVx x)) → t.st.toNat = s.st.toNat - 1)

/-- LD DT, Vx in one cycle and LD Vy, DT in the `k + 1`-th cycle after it, with no write to DT between,
reads `Vx - (k + 1)`, never below 0 (45_timers.md R184). -/
def Obligations.DelayTimerReadsWhatIsLeft : Prop :=
  ∀ (k : Nat) (s0 s1 s2 s3 : State) (x y : Reg),
    s0.nextInstr = some (.ldDtVx x) → step s0 = .next s1 → DelayRun k s1 s2 →
    s2.nextInstr = some (.ldVxDt y) → step s2 = .next s3 →
    s3.v[y.val].toNat = s0.v[x.val].toNat - (k + 1)

/-- `CYCLE` counts the ticks of a run with no fault, and nothing is reported along it
(10_state.md R31, decision D15, log 2). -/
def Obligations.SafeRunCountsItsTicks : Prop :=
  ∀ (k : Nat) (s t : State), SafeRun k s t →
    s.running = true ∧ t.cycle = s.cycle + k ∧ t.faultCode = s.faultCode ∧ t.faultPc = s.faultPc ∧
    t.faultOpcode = s.faultOpcode ∧ t.faultAddr = s.faultAddr ∧ t.faultCycle = s.faultCycle

/-! ## Control transfer -/

/-- RET (41_control_transfer.md R102): encoding, the pop, and the underflow. -/
def Obligations.RetPopsThePc : Prop :=
  decode 0x00EE#16 = .ok .ret ∧
  ∀ s : State,
    (s.stack = [] → exec .ret s = .next (s.raise .stackUnderflow 0x00EE)) ∧
    ∀ (w : Word) (rest : List Word), s.stack = w :: rest →
      exec .ret s = .next { s with pc := w, stack := rest }

/-- JP nnn (41_control_transfer.md R103): encoding and effect; nothing else changes. -/
def Obligations.JpSetsThePc : Prop :=
  ∀ (nnn : BitVec 12) (s : State),
    decode (0x1#4 ++ nnn) = .ok (.jp nnn) ∧
    exec (.jp nnn) s = .next { s with pc := BitVec.ofNat 16 nnn.toNat }

/-- CALL nnn (41_control_transfer.md R100, R104): the return address `PC + 2` (decision D19, log 20) becomes
the newest entry, `STACK[SP]`, the older ones stay; with 15 entries held StackOverflow is raised. -/
def Obligations.CallPushesTheReturnAddress : Prop :=
  ∀ (nnn : BitVec 12) (s : State),
    decode (0x2#4 ++ nnn) = .ok (.call nnn) ∧
    (15 ≤ s.sp → exec (.call nnn) s = .next (s.raise .stackOverflow (0x2#4 ++ nnn))) ∧
    (s.sp < 15 → ∃ t : State, exec (.call nnn) s = .next t ∧
      t = { s with stack := t.stack, pc := BitVec.ofNat 16 nnn.toNat } ∧
      t.sp = s.sp + 1 ∧ t.stackEntry s.sp = some (s.pc + 2) ∧
      ∀ j < s.sp, t.stackEntry j = s.stackEntry j)

/-- A CALL followed at any depth by its RET: RET after CALL restores the stack and leaves `PC` at the
instruction after the CALL (41_control_transfer.md R102, R104; 95_test_vectors.md S3). `t` is any
state that has the stack the CALL left. -/
def Obligations.RetUndoesCall : Prop :=
  ∀ (nnn : BitVec 12) (s s' t : State), s.sp < 15 → exec (.call nnn) s = .next s' → t.stack = s'.stack →
    exec .ret t = .next { t with pc := s.pc + 2, stack := s.stack }

/-- SE Vx, kk (41_control_transfer.md R105): encoding and effect. -/
def Obligations.SeSkipsWhenEqual : Prop :=
  ∀ (x : Reg) (kk : Byte) (s : State),
    decode (0x3#4 ++ regBits x ++ kk) = .ok (.se x kk) ∧
    exec (.se x kk) s = .next { s with pc := if s.v[x.val] = kk then s.pc + 4 else s.pc + 2 }

/-- SNE Vx, kk (41_control_transfer.md R106): encoding and effect. -/
def Obligations.SneSkipsWhenNotEqual : Prop :=
  ∀ (x : Reg) (kk : Byte) (s : State),
    decode (0x4#4 ++ regBits x ++ kk) = .ok (.sne x kk) ∧
    exec (.sne x kk) s = .next { s with pc := if s.v[x.val] = kk then s.pc + 2 else s.pc + 4 }

/-! ## Registers -/

/-- LD Vx, kk (42_register_alu.md R120): encoding and effect; VF is an ordinary destination. -/
def Obligations.LdLoadsTheConstant : Prop :=
  ∀ (x : Reg) (kk : Byte) (s : State),
    decode (0x6#4 ++ regBits x ++ kk) = .ok (.ldImm x kk) ∧
    exec (.ldImm x kk) s = .next { s with v := s.v.set x.val kk, pc := s.pc + 2 }

/-- ADD Vx, kk (42_register_alu.md R121): the sum mod 256; no flag. -/
def Obligations.AddConstantWrapsWithoutFlag : Prop :=
  ∀ (x : Reg) (kk : Byte) (s : State),
    decode (0x7#4 ++ regBits x ++ kk) = .ok (.addImm x kk) ∧
    exec (.addImm x kk) s = .next { s with
      v := s.v.set x.val (BitVec.ofNat 8 ((s.v[x.val].toNat + kk.toNat) % 256)), pc := s.pc + 2 }

/-- LD Vx, Vy (42_register_alu.md R122): encoding and effect. -/
def Obligations.LdCopiesTheRegister : Prop :=
  ∀ (x y : Reg) (s : State),
    decode (0x8#4 ++ regBits x ++ regBits y ++ 0x0#4) = .ok (.ldReg x y) ∧
    exec (.ldReg x y) s = .next { s with v := s.v.set x.val s.v[y.val], pc := s.pc + 2 }

/-- AND Vx, Vy (42_register_alu.md R123): bit by bit; VF is not cleared. -/
def Obligations.AndIsBitwiseAndLeavesVf : Prop :=
  ∀ (x y : Reg) (s : State),
    decode (0x8#4 ++ regBits x ++ regBits y ++ 0x2#4) = .ok (.andReg x y) ∧
    ∃ b : Byte, exec (.andReg x y) s = .next { s with v := s.v.set x.val b, pc := s.pc + 2 } ∧
      ∀ k < 8, b.getLsbD k = (s.v[x.val].getLsbD k && s.v[y.val].getLsbD k)

/-- XOR Vx, Vy (42_register_alu.md R124): bit by bit; VF is not cleared. -/
def Obligations.XorIsBitwiseXorLeavesVf : Prop :=
  ∀ (x y : Reg) (s : State),
    decode (0x8#4 ++ regBits x ++ regBits y ++ 0x3#4) = .ok (.xorReg x y) ∧
    ∃ b : Byte, exec (.xorReg x y) s = .next { s with v := s.v.set x.val b, pc := s.pc + 2 } ∧
      ∀ k < 8, b.getLsbD k = (s.v[x.val].getLsbD k != s.v[y.val].getLsbD k)

/-- ADD Vx, Vy (42_register_alu.md R126): the sum mod 256 to Vx, then the carry to VF, both from the
operands as they were; the cases x = F, y = F and x = y are among them. -/
def Obligations.AddRegistersWritesTheCarryLast : Prop :=
  ∀ (x y : Reg) (s : State),
    decode (0x8#4 ++ regBits x ++ regBits y ++ 0x4#4) = .ok (.addReg x y) ∧
    exec (.addReg x y) s = .next { s with
      v := (s.v.set x.val (BitVec.ofNat 8 ((s.v[x.val].toNat + s.v[y.val].toNat) % 256))).set 15
        (if s.v[x.val].toNat + s.v[y.val].toNat > 255 then 1 else 0)
      pc := s.pc + 2 }

/-- RND Vx, kk (42_register_alu.md R127, R128): Vx is the draw masked by kk, whatever the draw is: the
source's byte is a free value, and each execution makes a fresh one (the counter `draws` is the
model's, log 8). The result has no bit outside kk and does not exceed it. -/
def Obligations.RndMasksAFreshDraw : Prop :=
  ∀ (x : Reg) (kk : Byte) (s : State),
    decode (0xC#4 ++ regBits x ++ kk) = .ok (.rnd x kk) ∧
    ∃ b : Byte, exec (.rnd x kk) s = .next { s with
        v := s.v.set x.val b, pc := s.pc + 2, draws := s.draws + 1 } ∧
      b = Config.draw8 s.draws &&& kk ∧ b &&& ~~~kk = 0 ∧ b.toNat ≤ kk.toNat

/-! ## The index register and memory -/

/-- LD I, nnn (43_index_and_memory.md R140): encoding and effect. -/
def Obligations.LdSetsTheIndex : Prop :=
  ∀ (nnn : BitVec 12) (s : State),
    decode (0xA#4 ++ nnn) = .ok (.ldI nnn) ∧
    exec (.ldI nnn) s = .next { s with i := BitVec.ofNat 16 nnn.toNat, pc := s.pc + 2 }

/-- ADD I, Vx (43_index_and_memory.md R141, decision D8, log 14): mod 65536; VF is not written and nothing
faults, even above 0x0FFF. -/
def Obligations.AddIndexWrapsAt16Bits : Prop :=
  ∀ (x : Reg) (s : State),
    decode (0xF#4 ++ regBits x ++ 0x1E#8) = .ok (.addI x) ∧
    exec (.addI x) s = .next { s with
      i := BitVec.ofNat 16 ((s.i.toNat + s.v[x.val].toNat) % 65536), pc := s.pc + 2 }

/-- LD F, Vx (43_index_and_memory.md R142, decision D9, log 15): five times all of Vx, not only its low
nibble. -/
def Obligations.LdPointsAtTheGlyph : Prop :=
  ∀ (x : Reg) (s : State),
    decode (0xF#4 ++ regBits x ++ 0x29#8) = .ok (.ldF x) ∧
    ∃ w : Word, exec (.ldF x) s = .next { s with i := w, pc := s.pc + 2 } ∧
      w.toNat = s.v[x.val].toNat * 5

/-- LD B, Vx (43_index_and_memory.md R143): hundreds, tens and ones at the address the meaning uses and the
two after it, every other byte as before; above 0x0FFD AddressOutOfRange with the lowest offending
address and no byte written (decision D5, log 11). -/
def Obligations.BcdStoresThreeDigitsOrFaults : Prop :=
  ∀ (x : Reg) (s : State),
    decode (0xF#4 ++ regBits x ++ 0x33#8) = .ok (.ldB x) ∧
    (0x0FFD < s.i.toNat → exec (.ldB x) s =
      .next (s.raise (.addressOutOfRange (max s.i.toNat 0x1000)) (0xF#4 ++ regBits x ++ 0x33#8))) ∧
    (s.i.toNat ≤ 0x0FFD → ∃ m : Memory, exec (.ldB x) s = .next { s with mem := m, pc := s.pc + 2 } ∧
      (s.mem.wf → m.wf ∧
        (m.read s.indexAddr).toNat = s.v[x.val].toNat / 100 ∧
        (m.read (s.indexAddr + 1)).toNat = s.v[x.val].toNat / 10 % 10 ∧
        (m.read (s.indexAddr + 2)).toNat = s.v[x.val].toNat % 10 ∧
        ∀ a : Nat, ¬ (s.indexAddr ≤ a ∧ a < s.indexAddr + 3) → m.read a = s.mem.read a))

/-- LD [I], Vx (43_index_and_memory.md R144, decision D24, log 24): one register to one byte; `I` stays;
above 0x0FFF AddressOutOfRange. -/
def Obligations.StoreWritesOneByteOrFaults : Prop :=
  ∀ (x : Reg) (s : State),
    decode (0xF#4 ++ regBits x ++ 0x55#8) = .ok (.ldMemVx x) ∧
    (0x0FFF < s.i.toNat → exec (.ldMemVx x) s =
      .next (s.raise (.addressOutOfRange s.i.toNat) (0xF#4 ++ regBits x ++ 0x55#8))) ∧
    (s.i.toNat ≤ 0x0FFF → ∃ m : Memory, exec (.ldMemVx x) s = .next { s with mem := m, pc := s.pc + 2 } ∧
      (s.mem.wf → m.wf ∧ m.read s.indexAddr = s.v[x.val] ∧
        ∀ a : Nat, a ≠ s.indexAddr → m.read a = s.mem.read a))

/-- LD Vx, [I] (43_index_and_memory.md R145, decision D24, log 24): one byte to one register; above 0x0FFF
AddressOutOfRange. -/
def Obligations.LoadReadsOneByteOrFaults : Prop :=
  ∀ (x : Reg) (s : State),
    decode (0xF#4 ++ regBits x ++ 0x65#8) = .ok (.ldVxMem x) ∧
    (0x0FFF < s.i.toNat → exec (.ldVxMem x) s =
      .next (s.raise (.addressOutOfRange s.i.toNat) (0xF#4 ++ regBits x ++ 0x65#8))) ∧
    (s.i.toNat ≤ 0x0FFF → exec (.ldVxMem x) s =
      .next { s with v := s.v.set x.val (s.mem.read s.i.toNat), pc := s.pc + 2 })

/-- The bus: one and two bytes, big-endian, with the range check before any access
(20_memory.md R42, R43, R44, R45). -/
def Obligations.BusReadsAndWritesBigEndian : Prop :=
  ∀ (m : Memory) (a : Nat) (b : Byte) (w : Word), m.wf →
    memRead8 m a = (if a > 0x0FFF then .error a else .ok (m.read a)) ∧
    (a > 0x0FFF → memWrite8 m a b = .error a ∧ memWrite16 m a w = .error a ∧ memRead16 m a = .error a) ∧
    (a = 0x0FFF → memRead16 m a = .error 0x1000 ∧ memWrite16 m a w = .error 0x1000) ∧
    (a ≤ 0x0FFF → ∃ m', memWrite8 m a b = .ok m' ∧ m'.read a = b ∧ ∀ c, c ≠ a → m'.read c = m.read c) ∧
    (a ≤ 0x0FFE → (∃ r, memRead16 m a = .ok r ∧ r.toNat = (m.read a).toNat * 256 + (m.read (a + 1)).toNat) ∧
      ∃ m', memWrite16 m a w = .ok m' ∧ (m'.read a).toNat = w.toNat / 256 ∧
        (m'.read (a + 1)).toNat = w.toNat % 256 ∧ ∀ c, c ≠ a → c ≠ a + 1 → m'.read c = m.read c)

/-- Memories in canonical form that read alike at every address are the same data (the form is the model's
own, log 4). -/
def Obligations.CanonicalMemoriesThatReadAlikeAreEqual : Prop :=
  ∀ m m' : Memory, m.wf → m'.wf → (∀ a, m.read a = m'.read a) → m = m'

/-- A byte stored in one cycle is what the fetch of the next cycle reads there, with no barrier
(20_memory.md R56): after a tick that executes LD [I], Vx, the word at any fetchable address holds Vx
where the store went and the old bytes elsewhere. -/
def Obligations.StoreIsSeenByTheNextFetch : Prop :=
  ∀ (s t : State) (x : Reg), s.mem.wf → s.nextInstr = some (.ldMemVx x) → s.i.toNat ≤ 0x0FFF →
    step s = .next t → ∀ p : Word, p.toNat ≤ 0x0FFE →
      ({ t with pc := p } : State).fetch = .ok
        ((if p.toNat = s.indexAddr then s.v[x.val] else s.mem.read p.toNat) ++
          (if p.toNat + 1 = s.indexAddr then s.v[x.val] else s.mem.read (p.toNat + 1)))

/-! ## The display -/

/-- CLS (44_display.md R160): every pixel is 0 and nothing else but `PC` changes; all packed bytes read 0. -/
def Obligations.ClsClearsEveryPixel : Prop :=
  decode 0x00E0#16 = .ok .cls ∧
  ∀ s : State, ∃ d : Framebuffer, exec .cls s = .next { s with fb := d, pc := s.pc + 2 } ∧
    (∀ row col, d.pixel row col = false) ∧ ∀ k, d.packedByte k = 0

/-- DRW Vx, Vy, n (44_display.md R161 to R164; decisions D5, D10 and D12, log 11, log 16 and log 17): with
every source byte in memory each pixel is inverted exactly where a lit sprite pixel falls, VF gets
whether such a pixel was lit, from the coordinates as they were, and nothing else changes; otherwise
AddressOutOfRange with the lowest offending address. With n = 0 no byte is read and no fault comes. -/
def Obligations.DrwXorsTheSpriteOrFaults : Prop :=
  ∀ (x y : Reg) (n : Nat) (s : State), n ≤ 15 →
    decode (0xD#4 ++ regBits x ++ regBits y ++ BitVec.ofNat 4 n) = .ok (.drw x y n) ∧
    (0 < n → 0x0FFF < s.i.toNat + n - 1 → exec (.drw x y n) s =
      .next (s.raise (.addressOutOfRange (max s.i.toNat 0x1000))
        (0xD#4 ++ regBits x ++ regBits y ++ BitVec.ofNat 4 n))) ∧
    (n = 0 ∨ s.i.toNat + n - 1 ≤ 0x0FFF → ∃ (d : Framebuffer) (flag : Byte),
      exec (.drw x y n) s = .next { s with fb := d, v := s.v.set 15 flag, pc := s.pc + 2 } ∧
      (∀ row col, d.pixel row col = true ↔
        ¬ (s.fb.pixel row col = true ↔
          SpriteLights s.mem s.indexAddr s.v[x.val] s.v[y.val] n row col)) ∧
      (flag = 0 ∨ flag = 1) ∧
      (flag = 1 ↔ ∃ row col, s.fb.pixel row col = true ∧
        SpriteLights s.mem s.indexAddr s.v[x.val] s.v[y.val] n row col))

/-- Drawing a sprite twice at the same coordinates restores the framebuffer, and the second draw reports
no collision exactly when every pixel under a lit sprite pixel was lit before the first
(44_display.md R165). `t` is any state that the second draw starts from with the same `I`, memory and
coordinates and the framebuffer the first draw left. -/
def Obligations.SameSpriteTwiceRestoresTheDisplay : Prop :=
  ∀ (x y : Reg) (n : Nat) (s s' t t' : State), n ≤ 15 → (n = 0 ∨ s.i.toNat + n - 1 ≤ 0x0FFF) →
    exec (.drw x y n) s = .next s' →
    t.fb = s'.fb → t.i = s.i → t.mem = s.mem → t.v[x.val] = s.v[x.val] → t.v[y.val] = s.v[y.val] →
    exec (.drw x y n) t = .next t' →
    t'.fb = s.fb ∧
    (t'.v[15] = 0 ↔ ∀ row col,
      SpriteLights s.mem s.indexAddr s.v[x.val] s.v[y.val] n row col → s.fb.pixel row col = true)

/-- The packed view holds the pixels: row-major, the leftmost of eight pixels in bit 7
(10_state.md R27; the layout is decision D11, log 16). -/
def Obligations.PackedBytesHoldThePixels : Prop :=
  ∀ (s : State) (row : Fin 32) (col : Fin 64),
    s.fbOut.length = 256 ∧
    (s.fbOut.getD (row.val * 8 + col.val / 8) 0).getLsbD (7 - col.val % 8) = s.fb.pixel row col

/-- One sprite row blitted pixel by pixel gives what the packed form gives with two shifted bytes
(44_display.md R166). -/
def Obligations.PackedBlitGivesTheSameRow : Prop :=
  ∀ (d : Framebuffer) (coll : Bool) (vx vy b : Byte) (r : Nat) (i0 i1 : Fin 256) (left right : Byte),
    left = b >>> (vx.toNat % 8) → right = b <<< (8 - vx.toNat % 8) →
    i0.val = (vy.toNat + r) % 32 * 8 + vx.toNat % 64 / 8 →
    i1.val = (vy.toNat + r) % 32 * 8 + (vx.toNat % 64 / 8 + 1) % 8 →
    let res := blitRow vx vy r b { fb := d, collided := coll }
    res.fb.packedByte i0 = d.packedByte i0 ^^^ left ∧
    res.fb.packedByte i1 = d.packedByte i1 ^^^ right ∧
    (∀ k, k ≠ i0 → k ≠ i1 → res.fb.packedByte k = d.packedByte k) ∧
    (res.collided = true ↔
      coll = true ∨ d.packedByte i0 &&& left ≠ 0 ∨ d.packedByte i1 &&& right ≠ 0)

/-! ## Timers -/

/-- LD Vx, DT (45_timers.md R181): encoding and effect on the state after the cycle's countdown. -/
def Obligations.LdReadsTheDelayTimer : Prop :=
  ∀ (x : Reg) (s : State),
    decode (0xF#4 ++ regBits x ++ 0x07#8) = .ok (.ldVxDt x) ∧
    exec (.ldVxDt x) s = .next { s with v := s.v.set x.val s.dt, pc := s.pc + 2 }

/-- LD DT, Vx (45_timers.md R182): encoding and effect. -/
def Obligations.LdSetsTheDelayTimer : Prop :=
  ∀ (x : Reg) (s : State),
    decode (0xF#4 ++ regBits x ++ 0x15#8) = .ok (.ldDtVx x) ∧
    exec (.ldDtVx x) s = .next { s with dt := s.v[x.val], pc := s.pc + 2 }

/-- LD ST, Vx (45_timers.md R183, decision D25, log 25): encoding and effect. -/
def Obligations.LdSetsTheSoundTimer : Prop :=
  ∀ (x : Reg) (s : State),
    decode (0xF#4 ++ regBits x ++ 0x18#8) = .ok (.ldStVx x) ∧
    exec (.ldStVx x) s = .next { s with st := s.v[x.val], pc := s.pc + 2 }

/-! ## Whole-machine rules, over all instructions -/

/-- A general register changes only where the "writes" column of 10_state.md R12 lists it
(R13; 95_test_vectors.md Q2). -/
def Obligations.RegistersChangeOnlyWhereTabulated : Prop :=
  ∀ (i : Instr) (s t : State) (r : Reg), exec i s = .next t → ¬ i.writesV r → t.v[r.val] = s.v[r.val]

/-- How each instruction leaves `PC`: the table of 10_state.md R16. -/
def Obligations.PcFollowsItsTable : Prop :=
  ∀ (i : Instr) (s t : State), s.halted = false → exec i s = .next t →
    t.pc = if t.halted then s.pc else i.pcAfter s

/-- Memory changes only through LD B (three bytes) and LD [I] (one), at the address the meanings use
(20_memory.md R49, 95_test_vectors.md Q7). -/
def Obligations.MemoryChangesOnlyWhereStored : Prop :=
  ∀ (i : Instr) (s t : State), s.mem.wf → exec i s = .next t →
    t.mem.wf ∧
    ∀ a : Nat, ¬ (s.indexAddr ≤ a ∧ a < s.indexAddr + i.storeSize) → t.mem.read a = s.mem.read a

/-- Every other piece of state changes only through its own instructions: `I` through LD I, ADD I and LD F
(10_state.md R19), `DT` and `ST` through Fx15 and Fx18 (R20), the stack through CALL and RET (R23), the
framebuffer through CLS and DRW (R24, R26); `CYCLE` and `load_error` through none (R31). `draws` is the
model's own (log 8). -/
def Obligations.OtherStateChangesOnlyThroughItsInstructions : Prop :=
  ∀ (i : Instr) (s t : State), exec i s = .next t →
    (t.i ≠ s.i → (∃ nnn, i = .ldI nnn) ∨ (∃ x, i = .addI x) ∨ ∃ x, i = .ldF x) ∧
    (t.dt ≠ s.dt → ∃ x, i = .ldDtVx x) ∧
    (t.st ≠ s.st → ∃ x, i = .ldStVx x) ∧
    (t.stack ≠ s.stack → i = .ret ∨ ∃ nnn, i = .call nnn) ∧
    (t.fb ≠ s.fb → i = .cls ∨ ∃ x y n, i = .drw x y n) ∧
    (t.draws ≠ s.draws → ∃ x kk, i = .rnd x kk) ∧
    t.cycle = s.cycle ∧ t.loadError = s.loadError

/-- Every tick keeps the machine's invariant (`State.Inv`): canonical memory, `SP` in 0..15
(10_state.md R23), return addresses at most 0x1000 and `PC` at most 0x1002 (R18), and a fault report that
fits `HALTED` (60_exceptions.md R205, R207; decision D14, log 18). -/
def Obligations.EveryTickKeepsTheInvariant : Prop :=
  ∀ s t : State, s.Inv → step s = .next t → t.Inv

/-- The invariant holds after every accepted reset, whatever the font and the program, and so of
`State.reset` (10_state.md R32, 70_reset_and_hazards.md R231; the zeros of the report are decision D14, log 2). -/
def Obligations.EveryResetMeetsTheInvariant : Prop :=
  State.reset.Inv ∧
  ∀ (font : Font) (prog : List Byte) (u s : State), hostReset font prog u = .machine s → s.Inv

/-- In every state that some program reaches `PC` is at most 0x1002, `SP` at most 15 and each return
address at most 0x1000, and a Halted one reports the fault of the instruction at `PC`
(10_state.md R18, R23; 60_exceptions.md R207; 95_test_vectors.md Q3, Q8; the report's contents are decision D14,
log 18). -/
def Obligations.ReachableStatesMeetTheInvariant : Prop := ∀ s : State, s.Reachable → s.Inv

/-! ## Reset and the host interface -/

/-- Reset with a program of at most 3584 bytes: the font at 0x000..0x04F, the program verbatim from 0x200,
zero elsewhere, `PC` = 0x0200, Running (70_reset_and_hazards.md R231, 10_state.md R21, 20_memory.md R59); the
zeros of the registers, the report and the counters are decisions D2, D14 and D15 (log 1 and log 2),
and no program changes anything but memory. -/
def Obligations.ResetLoadsTheFontAndTheProgram : Prop :=
  ∀ (font : Font) (prog : List Byte) (u : State), prog.length ≤ 3584 →
    ∃ s : State, hostReset font prog u = .machine s ∧ s = { State.reset with mem := s.mem } ∧
      s.pc = 0x0200 ∧ s.halted = false ∧ s.loadError = false ∧ s.stack = [] ∧
      (∀ k : Fin 80, s.mem.read k.val = font[k.val]) ∧
      (∀ k, k < prog.length → s.mem.read (0x200 + k) = prog.getD k 0) ∧
      ∀ a, 0x050 ≤ a → ¬ (0x200 ≤ a ∧ a < 0x200 + prog.length) → s.mem.read a = 0

/-- A program of more than 3584 bytes is ProgramTooLarge: no machine to run, only a load error with fault
code 5, which ignores ticks whatever else it holds (70_reset_and_hazards.md R233, decision D23, log 23). -/
def Obligations.OversizedProgramIsALoadError : Prop :=
  ∀ (font : Font) (prog : List Byte) (u : State), 3584 < prog.length →
    ∃ s : State, hostReset font prog u = .loadFailed s ∧ s.loadError = true ∧
      s.faultCode = .programTooLarge ∧ step s = .next s

/-- `State.reset` is the reset with the default font and no program, and its first cycle halts with
UnknownInstruction on the word 0x0000 at 0x0200 (70_reset_and_hazards.md R234, decision D23, log 5 and log 23). -/
def Obligations.EmptyProgramHaltsInItsFirstCycle : Prop :=
  (∀ u : State, hostReset Config.font [] u = .machine State.reset) ∧
  step State.reset = .next { State.reset with
    cycle := 1, halted := true, faultCode := .unknownInstruction, faultPc := 0x0200, faultCycle := 1 }

/-- An instruction placed with `withFetchWord` is what the very next step runs (the model's own interface,
log 5 and log 30; 40_cycle.md R80). -/
def Obligations.PlacedInstructionRunsNext : Prop :=
  ∀ (s : State) (i : Instr), s.mem.wf → i.WellFormed →
    (s.withFetchWord 16 (encode i).toNat).mem.wf ∧
    step (s.withFetchWord 16 (encode i).toNat) = exec i (s.withFetchWord 16 (encode i).toNat).beginCycle

/-- The trace record of a cycle that gets past its decode: the cycle's number, `PC`, the opcode and the
registers after the countdown and before the execution (40_cycle.md R88, decision D26, log 26). -/
def Obligations.TraceShowsTheStateBeforeExecution : Prop :=
  ∀ (s : State) (i : Instr), s.nextInstr = some i →
    s.traceOf = some {
      cycle := s.cycle + 1
      pc := s.pc
      opcode := encode i
      v := s.v
      i := s.i
      dt := BitVec.ofNat 8 (s.dt.toNat - 1)
      st := BitVec.ofNat 8 (s.st.toNat - 1)
      sp := s.sp }

/-- There is no sleep or wait state (60_exceptions.md R219). A tick of a running machine is never spent
waiting: it counts a cycle and either executes the instruction at `PC` or halts. Between two ticks all
state survives: a session of host actions without a reset is the run of its ticks alone, however the
host idles or reads outputs between them (70_reset_and_hazards.md R240, decision D1, log 31). Halted is no
power state: no such session leaves it (40_cycle.md R85, 60_exceptions.md R212; decision D22, log 22). -/
def Obligations.TheMachineNeverWaitsAndIdlingKeepsAllState : Prop :=
  (∀ s : State, s.running = true → ∃ t, step s = .next t ∧ t.cycle = s.cycle + 1 ∧
    ((∃ i, s.nextInstr = some i ∧ exec i s.beginCycle = .next t) ∨ t.halted = true)) ∧
  (∀ (acts : List HostAction) (s : State), (∀ a ∈ acts, a.isReset = false) →
    hostSession acts s = Host.Core.run Sys2Proof.core (tickCount acts) s) ∧
  ∀ (acts : List HostAction) (s : State), (∀ a ∈ acts, a.isReset = false) → s.running = false →
    hostSession acts s = .next s
end

