-- ==== Sys2Proof/Laws/Decode.lean ====
section
/-! SUPPORT. What the field extractors read from a word that a format packs (30_encoding.md R61, R62). -/

namespace Sys2Proof

/-! ## Format NNN -/

theorem fieldOp_nnn (op : BitVec 4) (nnn : BitVec 12) : fieldOp (op ++ nnn) = op := by
  have h : (op ++ nnn).extractLsb' 12 4 = op := by
    ext k hk
    rw [BitVec.getElem_extractLsb', BitVec.getLsbD_append]
    simp [BitVec.getLsbD_eq_getElem, hk]
  exact h

theorem fieldNnn_nnn (op : BitVec 4) (nnn : BitVec 12) : fieldNnn (op ++ nnn) = nnn := by
  have h : (op ++ nnn).extractLsb' 0 12 = nnn := by
    ext k hk
    rw [BitVec.getElem_extractLsb', BitVec.getLsbD_append]
    simp [BitVec.getLsbD_eq_getElem, hk]
  exact h

/-! ## Formats XKK and XFF -/

theorem fieldOp_xkk (op : BitVec 4) (x : Reg) (kk : Byte) : fieldOp (op ++ regBits x ++ kk) = op := by
  have h : (op ++ regBits x ++ kk).extractLsb' 12 4 = op := by
    ext k hk
    rw [BitVec.getElem_extractLsb', BitVec.getLsbD_append, BitVec.getLsbD_append]
    simp [BitVec.getLsbD_eq_getElem, hk, show ¬ 12 + k < 8 by omega, show 12 + k - 8 = 4 + k by omega]
  exact h

theorem fieldX_xkk (op : BitVec 4) (x : Reg) (kk : Byte) : fieldX (op ++ regBits x ++ kk) = x := by
  have h : (op ++ regBits x ++ kk).extractLsb' 8 4 = regBits x := by
    ext k hk
    rw [BitVec.getElem_extractLsb', BitVec.getLsbD_append, BitVec.getLsbD_append]
    simp [BitVec.getLsbD_eq_getElem, hk]
  exact congrArg BitVec.toFin h

theorem fieldKk_xkk (op : BitVec 4) (x : Reg) (kk : Byte) : fieldKk (op ++ regBits x ++ kk) = kk := by
  have h : (op ++ regBits x ++ kk).extractLsb' 0 8 = kk := by
    ext k hk
    rw [BitVec.getElem_extractLsb', BitVec.getLsbD_append, BitVec.getLsbD_append]
    simp [BitVec.getLsbD_eq_getElem, hk]
  exact h

/-! ## Formats XYF and XYN -/

theorem fieldOp_xyn (op : BitVec 4) (x y : Reg) (n : BitVec 4) :
    fieldOp (op ++ regBits x ++ regBits y ++ n) = op := by
  have h : (op ++ regBits x ++ regBits y ++ n).extractLsb' 12 4 = op := by
    ext k hk
    rw [BitVec.getElem_extractLsb', BitVec.getLsbD_append, BitVec.getLsbD_append, BitVec.getLsbD_append]
    simp [BitVec.getLsbD_eq_getElem, hk, show ¬ 12 + k < 4 by omega, show 12 + k - 4 = 8 + k by omega, show ¬ 8 + k < 4 by omega, show 8 + k - 4 = 4 + k by omega]
  exact h

theorem fieldX_xyn (op : BitVec 4) (x y : Reg) (n : BitVec 4) :
    fieldX (op ++ regBits x ++ regBits y ++ n) = x := by
  have h : (op ++ regBits x ++ regBits y ++ n).extractLsb' 8 4 = regBits x := by
    ext k hk
    rw [BitVec.getElem_extractLsb', BitVec.getLsbD_append, BitVec.getLsbD_append, BitVec.getLsbD_append]
    simp [BitVec.getLsbD_eq_getElem, hk, show ¬ 8 + k < 4 by omega, show 8 + k - 4 = 4 + k by omega]
  exact congrArg BitVec.toFin h

theorem fieldY_xyn (op : BitVec 4) (x y : Reg) (n : BitVec 4) :
    fieldY (op ++ regBits x ++ regBits y ++ n) = y := by
  have h : (op ++ regBits x ++ regBits y ++ n).extractLsb' 4 4 = regBits y := by
    ext k hk
    rw [BitVec.getElem_extractLsb', BitVec.getLsbD_append, BitVec.getLsbD_append, BitVec.getLsbD_append]
    simp [BitVec.getLsbD_eq_getElem, hk]
  exact congrArg BitVec.toFin h

theorem fieldN_xyn (op : BitVec 4) (x y : Reg) (n : BitVec 4) :
    fieldN (op ++ regBits x ++ regBits y ++ n) = n := by
  have h : (op ++ regBits x ++ regBits y ++ n).extractLsb' 0 4 = n := by
    ext k hk
    rw [BitVec.getElem_extractLsb', BitVec.getLsbD_append, BitVec.getLsbD_append, BitVec.getLsbD_append]
    simp [BitVec.getLsbD_eq_getElem, hk]
  exact h

/-! ## Bytes -/

theorem joinBytes_hi_lo (w : Word) : joinBytes (hiByte w) (loByte w) = w := by
  have h : (w.extractLsb' 8 8 ++ w.extractLsb' 0 8) = (w : BitVec (8 + 8)) := by
    ext k hk
    rw [BitVec.getElem_append]
    split
    · rw [BitVec.getElem_extractLsb', Nat.zero_add]
      exact BitVec.getLsbD_eq_getElem hk
    · rw [BitVec.getElem_extractLsb', show 8 + (k - 8) = k by omega]
      exact BitVec.getLsbD_eq_getElem hk
  exact h

/-! ## A word is its fields -/

/-- Format NNN: the word from its fields (30_encoding.md R61). -/
theorem packNnn_fields (w : Word) : packNnn (fieldOp w) (fieldNnn w) = w := by
  have h : (w.extractLsb' 12 4 ++ w.extractLsb' 0 12 : BitVec (4 + 12)) = w := by
    ext k hk
    rw [BitVec.getElem_append]
    split <;> rw [BitVec.getElem_extractLsb', ← BitVec.getLsbD_eq_getElem]
    · rw [Nat.zero_add]
    · congr 1; omega
  exact h

/-- Formats XKK and XFF: the word from its fields (30_encoding.md R61). -/
theorem packXkk_fields (w : Word) : packXkk (fieldOp w) (fieldX w) (fieldKk w) = w := by
  have h : (w.extractLsb' 12 4 ++ w.extractLsb' 8 4 ++ w.extractLsb' 0 8 : BitVec (4 + 4 + 8)) = w := by
    ext k hk
    rw [BitVec.getElem_append]
    split
    · rw [BitVec.getElem_extractLsb', ← BitVec.getLsbD_eq_getElem, Nat.zero_add]
    · rw [BitVec.getElem_append]
      split <;> rw [BitVec.getElem_extractLsb', ← BitVec.getLsbD_eq_getElem] <;> congr 1 <;> omega
  exact h

/-- Formats XYF and XYN: the word from its fields (30_encoding.md R61). -/
theorem packXyn_fields (w : Word) : packXyn (fieldOp w) (fieldX w) (fieldY w) (fieldN w) = w := by
  have h : (w.extractLsb' 12 4 ++ w.extractLsb' 8 4 ++ w.extractLsb' 4 4 ++ w.extractLsb' 0 4 :
      BitVec (4 + 4 + 4 + 4)) = w := by
    ext k hk
    rw [BitVec.getElem_append]
    split
    · rw [BitVec.getElem_extractLsb', ← BitVec.getLsbD_eq_getElem, Nat.zero_add]
    · rw [BitVec.getElem_append]
      split
      · rw [BitVec.getElem_extractLsb', ← BitVec.getLsbD_eq_getElem]; congr 1; omega
      · rw [BitVec.getElem_append]
        split <;> rw [BitVec.getElem_extractLsb', ← BitVec.getLsbD_eq_getElem] <;> congr 1 <;> omega
  exact h

/-! ## The fields that select, as numbers -/

theorem fieldOp_toNat (w : Word) : (fieldOp w).toNat = w.toNat / 0x1000 := by
  have := w.isLt
  rw [fieldOp, BitVec.extractLsb'_toNat, Nat.shiftRight_eq_div_pow]
  omega

theorem fieldN_toNat (w : Word) : (fieldN w).toNat = w.toNat % 16 := by
  rw [fieldN, BitVec.extractLsb'_toNat, Nat.shiftRight_zero]

theorem fieldKk_toNat (w : Word) : (fieldKk w).toNat = w.toNat % 256 := by
  rw [fieldKk, BitVec.extractLsb'_toNat, Nat.shiftRight_zero]

end Sys2Proof
end

