-- ==== Sys2Proof/Laws/Framebuffer.lean ====
section
/-! SUPPORT. What the framebuffer operations do, pixel by pixel. -/

namespace Sys2Proof.Machine

/-- A flip inverts its pixel and leaves every other one (44_display.md R163). -/
@[simp] theorem Framebuffer.pixel_flip (d : Framebuffer) (row row' : Fin 32) (col col' : Fin 64) :
    (d.flip row col).pixel row' col' =
      (d.pixel row' col' ^^ decide (row' = row ∧ col' = col)) := by
  unfold Framebuffer.pixel Framebuffer.flip
  rw [Vector.getElem_set]
  split
  · rename_i hr
    have hr : row' = row := Fin.ext hr.symm
    subst hr
    rw [BitVec.getLsbD_xor, BitVec.getLsbD_twoPow]
    congr 1
    have := col.isLt
    have := col'.isLt
    by_cases hc : col' = col
    · subst hc; simp; omega
    · have hne : col'.val ≠ col.val := fun h => hc (Fin.ext h)
      simp only [hc, and_false, decide_false, Bool.and_eq_false_imp, decide_eq_true_eq]
      intro _
      rw [decide_eq_false_iff_not]
      omega
  · rename_i hr
    have hr : ¬ row' = row := fun h => hr (congrArg Fin.val h.symm)
    simp [hr]

@[simp] theorem Framebuffer.pixel_clear (row : Fin 32) (col : Fin 64) :
    Framebuffer.clear.pixel row col = false := by
  simp [Framebuffer.pixel, Framebuffer.clear]

/-- Two framebuffers with the same pixels are the same. -/
theorem Framebuffer.ext_pixel {d d' : Framebuffer}
    (h : ∀ row col, d.pixel row col = d'.pixel row col) : d = d' := by
  refine Vector.ext fun r hr => BitVec.eq_of_getLsbD_eq fun k hk => ?_
  have := h ⟨r, hr⟩ ⟨63 - k, by omega⟩
  simpa [Framebuffer.pixel, show 63 - (63 - k) = k by omega] using this

/-! ## The blit, said once -/

/-- What one row of the blit can do, over any distinct columns of the eight: it inverts the pixels under
its lit sprite pixels and no others, and it has collided if one of those was lit (44_display.md R163, R164). -/
theorem blit_columns (vx vy : Byte) (r : Nat) (b : Byte) (cs : List Nat) (acc : BlitResult)
    (hn : cs.Nodup) (h8 : ∀ c ∈ cs, c < 8) :
    (∀ row col, (cs.foldl (blitPixel vx vy r b) acc).fb.pixel row col =
      (acc.fb.pixel row col ^^
        decide (∃ c ∈ cs, row = spriteRow vy r ∧ col = spriteCol vx c ∧ spritePixel b c = true))) ∧
    ((cs.foldl (blitPixel vx vy r b) acc).collided = true ↔ acc.collided = true ∨
      ∃ c ∈ cs, acc.fb.pixel (spriteRow vy r) (spriteCol vx c) = true ∧ spritePixel b c = true) := by
  induction cs generalizing acc with
  | nil => simp
  | cons c cs ih =>
    have hc := h8 c (by simp)
    have hne : ∀ c' ∈ cs, spriteCol vx c' ≠ spriteCol vx c := by
      intro c' hm he
      have h1 : c' ≠ c := fun h => (List.nodup_cons.1 hn).1 (h ▸ hm)
      have h2 := h8 c' (by simp [hm])
      have h3 : (vx.toNat + c') % 64 = (vx.toNat + c) % 64 := congrArg Fin.val he
      omega
    obtain ⟨ihp, ihc⟩ := ih (blitPixel vx vy r b acc c) (List.nodup_cons.1 hn).2
      (fun c' hm => h8 c' (by simp [hm]))
    rw [List.foldl_cons]
    refine ⟨fun row col => ?_, ?_⟩
    · rw [ihp]
      unfold blitPixel
      split
      · rename_i hb
        rw [Framebuffer.pixel_flip, Bool.xor_assoc]
        congr 1
        by_cases hh : row = spriteRow vy r ∧ col = spriteCol vx c
        · obtain ⟨rfl, rfl⟩ := hh
          have : ¬ ∃ c' ∈ cs, spriteCol vx c = spriteCol vx c' ∧ spritePixel b c' = true := by
            rintro ⟨c', hm, he, _⟩
            exact hne c' hm he.symm
          simp [hb, this]
        · rw [decide_eq_false hh, Bool.false_xor, decide_eq_decide]
          constructor
          · rintro ⟨c', hm, h⟩
            exact ⟨c', by simp [hm], h⟩
          · rintro ⟨c', hm, h1, h2, h3⟩
            rcases List.mem_cons.1 hm with rfl | hm
            · exact absurd ⟨h1, h2⟩ hh
            · exact ⟨c', hm, h1, h2, h3⟩
      · rename_i hb
        congr 1
        simp [hb]
    · rw [ihc]
      unfold blitPixel
      split
      · rename_i hb
        simp only [Bool.or_eq_true, Framebuffer.pixel_flip, List.mem_cons]
        constructor
        · rintro ((h | h) | ⟨c', hm, h1, h2⟩)
          · exact .inl h
          · exact .inr ⟨c, .inl rfl, h, hb⟩
          · exact .inr ⟨c', .inr hm, by simpa [hne c' hm] using h1, h2⟩
        · rintro (h | ⟨c', rfl | hm, h1, h2⟩)
          · exact .inl (.inl h)
          · exact .inl (.inr h1)
          · exact .inr ⟨c', hm, by simpa [hne c' hm] using h1, h2⟩
      · rename_i hb
        simp [hb]

/-- A lit pixel of row byte `b`, drawn as row `r` at (`vx`, `vy`), falls on (`row`, `col`)
(44_display.md R161, R162). -/
def RowLights (vx vy : Byte) (r : Nat) (b : Byte) (row : Fin 32) (col : Fin 64) : Prop :=
  ∃ c < 8, row = spriteRow vy r ∧ col = spriteCol vx c ∧ spritePixel b c = true

/-- What one row of the blit does to the pixels. -/
theorem pixel_blitRow (vx vy : Byte) (r : Nat) (b : Byte) (acc : BlitResult) (row : Fin 32) (col : Fin 64) :
    (blitRow vx vy r b acc).fb.pixel row col = true ↔
      ¬ (acc.fb.pixel row col = true ↔ RowLights vx vy r b row col) := by
  unfold blitRow RowLights
  rw [(blit_columns vx vy r b _ acc List.nodup_range (by simp)).1]
  rw [bne_iff_ne, ne_eq, Bool.eq_iff_iff, decide_eq_true_eq]
  simp only [List.mem_range]

/-- When one row of the blit has collided. -/
theorem collided_blitRow (vx vy : Byte) (r : Nat) (b : Byte) (acc : BlitResult) :
    (blitRow vx vy r b acc).collided = true ↔ acc.collided = true ∨
      ∃ row col, acc.fb.pixel row col = true ∧ RowLights vx vy r b row col := by
  unfold blitRow RowLights
  rw [(blit_columns vx vy r b _ acc List.nodup_range (by simp)).2]
  simp only [List.mem_range]
  constructor
  · rintro (h | ⟨c, hc, h1, h2⟩)
    · exact .inl h
    · exact .inr ⟨_, _, h1, c, hc, rfl, rfl, h2⟩
  · rintro (h | ⟨row, col, h1, c, hc, rfl, rfl, h2⟩)
    · exact .inl h
    · exact .inr ⟨c, hc, h1, h2⟩

/-- A lit pixel of a sprite whose rows are `bs`, the first of them row `r`, falls on (`row`, `col`). -/
def RowsLight (vx vy : Byte) (r : Nat) (bs : List Byte) (row : Fin 32) (col : Fin 64) : Prop :=
  ∃ k, ∃ h : k < bs.length, RowLights vx vy (r + k) bs[k] row col

/-- The first row of a sprite, and the rest. -/
theorem rowsLight_cons (vx vy : Byte) (r : Nat) (b : Byte) (bs : List Byte) (row : Fin 32) (col : Fin 64) :
    RowsLight vx vy r (b :: bs) row col ↔
      RowLights vx vy r b row col ∨ RowsLight vx vy (r + 1) bs row col := by
  unfold RowsLight
  constructor
  · rintro ⟨k, hk, h⟩
    cases k with
    | zero => exact .inl h
    | succ k => exact .inr ⟨k, by simpa using hk, by simpa [Nat.add_assoc, Nat.add_comm 1 k] using h⟩
  · rintro (h | ⟨k, hk, h⟩)
    · exact ⟨0, by simp, h⟩
    · exact ⟨k + 1, by simpa using hk, by simpa [Nat.add_assoc, Nat.add_comm 1 k] using h⟩

/-- Two rows of one sprite of at most 32 rows never meet. -/
theorem rowLights_disjoint {vx vy : Byte} {r : Nat} {b : Byte} {bs : List Byte} {row : Fin 32} {col : Fin 64}
    (hl : bs.length < 32) (h : RowLights vx vy r b row col) : ¬ RowsLight vx vy (r + 1) bs row col := by
  rintro ⟨k, hk, c', _, h', _⟩
  obtain ⟨c, _, h1, _⟩ := h
  have : (vy.toNat + r) % 32 = (vy.toNat + (r + 1 + k)) % 32 := congrArg Fin.val (h1.symm.trans h')
  omega

/-- What the rows of a blit do: the pixels under the lit sprite pixels are inverted and no others, and the
blit has collided exactly when one of those was lit before (44_display.md R163, R164). -/
theorem blitRows_spec (vx vy : Byte) (r : Nat) (bs : List Byte) (acc : BlitResult) (hl : bs.length ≤ 32) :
    (∀ row col, (blitRows vx vy r bs acc).fb.pixel row col = true ↔
      ¬ (acc.fb.pixel row col = true ↔ RowsLight vx vy r bs row col)) ∧
    ((blitRows vx vy r bs acc).collided = true ↔ acc.collided = true ∨
      ∃ row col, acc.fb.pixel row col = true ∧ RowsLight vx vy r bs row col) := by
  induction bs generalizing r acc with
  | nil => simp [blitRows, RowsLight]
  | cons b bs ih =>
    have hl' : bs.length < 32 := by simpa using hl
    obtain ⟨ihp, ihc⟩ := ih (r + 1) (blitRow vx vy r b acc) (Nat.le_of_lt hl')
    rw [blitRows]
    refine ⟨fun row col => ?_, ?_⟩
    · rw [ihp, pixel_blitRow, rowsLight_cons]
      have := @rowLights_disjoint vx vy r b bs row col hl'
      tauto
    · rw [ihc, collided_blitRow]
      constructor
      · rintro ((h | ⟨row, col, h1, h2⟩) | ⟨row, col, h1, h2⟩)
        · exact .inl h
        · exact .inr ⟨row, col, h1, (rowsLight_cons ..).2 (.inl h2)⟩
        · refine .inr ⟨row, col, ?_, (rowsLight_cons ..).2 (.inr h2)⟩
          rw [pixel_blitRow] at h1
          have : ¬ RowLights vx vy r b row col := fun h => rowLights_disjoint hl' h h2
          tauto
      · rintro (h | ⟨row, col, h1, h2⟩)
        · exact .inl (.inl h)
        · rcases (rowsLight_cons ..).1 h2 with h | h
          · exact .inl (.inr ⟨row, col, h1, h⟩)
          · refine .inr ⟨row, col, ?_, h⟩
            rw [pixel_blitRow]
            have : ¬ RowLights vx vy r b row col := fun h' => rowLights_disjoint hl' h' h
            tauto

end Sys2Proof.Machine
end

