-- ==== Sys2Proof/Laws/HostInterface.lean ====
section
/-! SUPPORT. What the host's actions and sessions do, case by case. -/

namespace Sys2Proof.Machine

variable (s : State)

@[simp] theorem hostAct_tick : hostAct s .tick = step s := rfl

@[simp] theorem hostAct_idle : hostAct s .idle = .next s := rfl

@[simp] theorem hostAct_readFramebuffer : hostAct s .readFramebuffer = .next s := rfl

@[simp] theorem hostAct_readStatus : hostAct s .readStatus = .next s := rfl

@[simp] theorem hostAct_readTrace : hostAct s .readTrace = .next s := rfl

@[simp] theorem hostAct_reset (font : Font) (prog : List Byte) (u : State) :
    hostAct s (.reset font prog u) = .next (hostReset font prog u).state := rfl

/-- An action that neither ticks nor resets keeps all state (60_exceptions.md R219). -/
theorem hostAct_of_passive {a : HostAction} (ht : a ≠ .tick) (hr : a.isReset = false) :
    hostAct s a = .next s := by
  cases a with
  | tick => exact absurd rfl ht
  | reset => cases hr
  | idle => rfl
  | readFramebuffer => rfl
  | readStatus => rfl
  | readTrace => rfl

@[simp] theorem hostSession_nil : hostSession [] s = .next s := rfl

/-- A session whose first action answers a next state goes on from that state. -/
theorem hostSession_cons {a : HostAction} {rest : List HostAction} {t : State} (h : hostAct s a = .next t) :
    hostSession (a :: rest) s = hostSession rest t := by
  simp only [hostSession, h]

@[simp] theorem tickCount_nil : tickCount [] = 0 := rfl

@[simp] theorem tickCount_cons (a : HostAction) (rest : List HostAction) :
    tickCount (a :: rest) = tickCount rest + if a = .tick then 1 else 0 := by
  simp only [tickCount, List.countP_cons, decide_eq_true_eq]

end Sys2Proof.Machine
end

