-- ==== Sys2Proof/Laws/Memory.lean ====
section
/-! SUPPORT. What the memory operations do: a read after a write, the canonical form kept, the range
checks. -/

namespace Sys2Proof.Machine

/-! ## Reads -/

@[simp] theorem Memory.read_nil (a : Nat) : Memory.read [] a = Memory.unlisted a := rfl

theorem Memory.read_cons (k : Nat) (b : Byte) (rest : Memory) (a : Nat) :
    Memory.read ((k, b) :: rest) a = if k = a then b else Memory.read rest a := rfl

/-- An address that no entry names reads as unlisted. -/
theorem Memory.read_of_not_listed {m : Memory} {a : Nat} (h : ∀ c ∈ m, c.1 ≠ a) :
    m.read a = Memory.unlisted a := by
  induction m with
  | nil => rfl
  | cons c rest ih =>
    obtain ⟨k, b⟩ := c
    have hk : k ≠ a := h (k, b) (by simp)
    rw [Memory.read_cons, if_neg hk]
    exact ih fun c hc => h c (by simp [hc])

/-- Reading past the entry of an address. -/
theorem Memory.read_entry_append (a : Nat) (b : Byte) (m : Memory) (a' : Nat)
    (hm : a' = a → m.read a' = Memory.unlisted a') :
    Memory.read (Memory.entry a b ++ m) a' = if a' = a then b else m.read a' := by
  by_cases hb : b = Memory.unlisted a
  · by_cases ha : a' = a
    · subst ha
      simp [Memory.entry, hb, hm rfl]
    · simp [Memory.entry, hb, ha]
  · by_cases ha : a' = a
    · simp [Memory.entry, hb, ha, Memory.read_cons]
    · simp [Memory.entry, hb, ha, Memory.read_cons, Ne.symm ha]

/-- Addresses rise strictly: the ordering half of the canonical form. -/
theorem Memory.rising_tail {c : Host.Cell} {m : Memory}
    (h : ((c :: m).map Prod.fst).Pairwise (· < ·)) :
    (m.map Prod.fst).Pairwise (· < ·) ∧ ∀ d ∈ m, c.1 < d.1 := by
  rw [List.map_cons, List.pairwise_cons] at h
  exact ⟨h.2, fun d hd => h.1 d.1 (List.mem_map.2 ⟨d, hd, rfl⟩)⟩

/-- A read after a write: the written address gives the byte, every other one what it gave before. -/
theorem Memory.read_write {m : Memory} (h : (m.map Prod.fst).Pairwise (· < ·)) (a : Nat) (b : Byte)
    (a' : Nat) : (m.write a b).read a' = if a' = a then b else m.read a' := by
  induction m with
  | nil =>
    have := Memory.read_entry_append a b [] a' (fun _ => rfl)
    simpa [Memory.write] using this
  | cons c rest ih =>
    obtain ⟨k, d⟩ := c
    obtain ⟨hr, hk⟩ := Memory.rising_tail h
    simp only [Memory.write]
    split
    · rename_i hlt
      rw [Memory.read_cons, ih hr, Memory.read_cons]
      by_cases ha : a' = a
      · subst ha
        simp [Nat.ne_of_lt hlt]
      · simp [ha]
    · split
      · rename_i _ heq
        subst heq
        rw [Memory.read_entry_append]
        · by_cases ha : a' = k
          · simp [ha]
          · simp [ha, Memory.read_cons, Ne.symm ha]
        · rintro rfl
          exact Memory.read_of_not_listed fun c hc => Nat.ne_of_gt (hk c hc)
      · rename_i h1 h2
        rw [Memory.read_entry_append]
        rintro rfl
        refine Memory.read_of_not_listed fun c hc => ?_
        rcases List.mem_cons.1 hc with rfl | hc
        · exact h2
        · have := hk c hc
          simp only at this
          omega

/-! ## The canonical form -/

theorem Memory.wf_nil : Memory.wf [] := by simp [Memory.wf]

/-- The addresses of a written memory: the old ones, less or plus the written one. -/
theorem Memory.mem_write {m : Memory} {a : Nat} {b : Byte} {c : Host.Cell}
    (h : c ∈ m.write a b) : c ∈ m ∨ (c = (a, b) ∧ b ≠ Memory.unlisted a) := by
  have entry_mem : ∀ {c : Host.Cell}, c ∈ Memory.entry a b → c = (a, b) ∧ b ≠ Memory.unlisted a := by
    intro c hc
    unfold Memory.entry at hc
    split at hc
    · cases hc
    · exact ⟨by simpa using hc, by assumption⟩
  induction m with
  | nil => exact .inr (entry_mem h)
  | cons d rest ih =>
    obtain ⟨k, e⟩ := d
    simp only [Memory.write] at h
    split at h
    · rcases List.mem_cons.1 h with rfl | h
      · exact .inl (by simp)
      · exact (ih h).imp (by intro h; simp [h]) id
    · split at h
      · rcases List.mem_append.1 h with h | h
        · exact .inr (entry_mem h)
        · exact .inl (by simp [h])
      · rcases List.mem_append.1 h with h | h
        · exact .inr (entry_mem h)
        · exact .inl h

/-- Addresses still rise strictly after a write. -/
theorem Memory.rising_write {m : Memory} (h : (m.map Prod.fst).Pairwise (· < ·)) (a : Nat) (b : Byte) :
    ((m.write a b).map Prod.fst).Pairwise (· < ·) := by
  induction m with
  | nil => unfold Memory.write Memory.entry; split <;> simp
  | cons d rest ih =>
    obtain ⟨k, e⟩ := d
    obtain ⟨hr, hk⟩ := Memory.rising_tail h
    have above : ∀ {n : Memory}, (n.map Prod.fst).Pairwise (· < ·) → (∀ c ∈ n, a < c.1) →
        ((Memory.entry a b ++ n).map Prod.fst).Pairwise (· < ·) := by
      intro n hn ha
      unfold Memory.entry
      split
      · simpa using hn
      · simp only [List.singleton_append, List.map_cons, List.pairwise_cons, List.mem_map]
        refine ⟨?_, hn⟩
        rintro _ ⟨c, hc, rfl⟩
        exact ha c hc
    simp only [Memory.write]
    split
    · rename_i hlt
      simp only [List.map_cons, List.pairwise_cons, List.mem_map]
      refine ⟨?_, ih hr⟩
      rintro _ ⟨c, hc, rfl⟩
      rcases Memory.mem_write hc with hc | ⟨rfl, _⟩
      · exact hk c hc
      · exact hlt
    · split
      · rename_i _ heq
        exact above hr fun c hc => heq ▸ hk c hc
      · rename_i h1 h2
        refine above h fun c hc => ?_
        rcases List.mem_cons.1 hc with rfl | hc
        · show a < k
          omega
        · have := hk c hc
          simp only at this
          omega

/-- A write to an existing address keeps the canonical form. -/
theorem Memory.write_wf {m : Memory} (h : m.wf) {a : Nat} (ha : a < Config.memSize) (b : Byte) :
    (m.write a b).wf := by
  refine ⟨Memory.rising_write h.1 a b, fun c hc => ?_⟩
  rcases Memory.mem_write hc with hc | ⟨rfl, hb⟩
  · exact h.2 c hc
  · exact ⟨ha, hb⟩

/-- Storing bytes one after another keeps the canonical form when every address exists. -/
theorem Memory.writeList_wf {m : Memory} (h : m.wf) {a : Nat} {bs : List Byte}
    (ha : a + bs.length ≤ Config.memSize) : (m.writeList a bs).wf := by
  induction bs generalizing m a with
  | nil => exact h
  | cons b bs ih =>
    simp only [List.length_cons] at ha
    exact ih (Memory.write_wf h (by omega) b) (by omega)

theorem Memory.writeList_rising {m : Memory} (h : (m.map Prod.fst).Pairwise (· < ·)) (a : Nat)
    (bs : List Byte) : ((m.writeList a bs).map Prod.fst).Pairwise (· < ·) := by
  induction bs generalizing m a with
  | nil => exact h
  | cons b bs ih => exact ih (Memory.rising_write h a b) (a + 1)

/-- A read after storing bytes from `a` up: byte `k` of them at `a + k`, every other address as before. -/
theorem Memory.read_writeList {m : Memory} (h : (m.map Prod.fst).Pairwise (· < ·)) (a : Nat)
    (bs : List Byte) (a' : Nat) :
    (m.writeList a bs).read a' =
      if a ≤ a' ∧ a' < a + bs.length then bs.getD (a' - a) 0 else m.read a' := by
  induction bs generalizing m a with
  | nil => simp [Memory.writeList]
  | cons b bs ih =>
    rw [Memory.writeList, ih (Memory.rising_write h a b), Memory.read_write h, List.length_cons]
    rcases Nat.lt_trichotomy a' a with hlt | rfl | hgt
    · rw [if_neg (by omega), if_neg (by omega), if_neg (by omega)]
    · rw [if_neg (by omega), if_pos rfl, if_pos (by omega)]
      simp
    · by_cases hin : a' < a + (bs.length + 1)
      · rw [if_pos (by omega), if_pos (by omega)]
        obtain ⟨j, hj⟩ : ∃ j, a' - a = j + 1 := ⟨a' - a - 1, by omega⟩
        rw [hj, List.getD_cons_succ, show a' - (a + 1) = j by omega]
      · rw [if_neg (by omega), if_neg (by omega), if_neg (by omega)]

/-- Storing a 16-bit value keeps the canonical form when both addresses exist. -/
theorem Memory.write16_wf {m : Memory} (h : m.wf) {a : Nat} (ha : a + 1 < Config.memSize) (w : Word) :
    (m.write16 a w).wf :=
  Memory.write_wf (Memory.write_wf h (by omega) _) ha _

/-! ## The bus -/

/-- A one-byte store answers exactly when the address exists, and then writes it. -/
theorem memWrite8_ok {m m' : Memory} {a : Nat} {b : Byte} (h : memWrite8 m a b = .ok m') :
    a ≤ Config.maxAddr ∧ m' = m.write a b := by
  unfold memWrite8 at h
  split at h
  · cases h
  · cases h; exact ⟨by omega, rfl⟩

/-- A one-byte store that stops reports the address, which does not exist. -/
theorem memWrite8_error {m : Memory} {a bad : Nat} {b : Byte} (h : memWrite8 m a b = .error bad) :
    a > Config.maxAddr ∧ bad = a := by
  unfold memWrite8 at h
  split at h
  · cases h; exact ⟨by assumption, rfl⟩
  · cases h

/-- A one-byte read answers exactly when the address exists. -/
theorem memRead8_ok {m : Memory} {a : Nat} {b : Byte} (h : memRead8 m a = .ok b) :
    a ≤ Config.maxAddr ∧ b = m.read a := by
  unfold memRead8 at h
  split at h
  · cases h
  · cases h; exact ⟨by omega, rfl⟩

/-- A one-byte read that stops reports the address, which does not exist. -/
theorem memRead8_error {m : Memory} {a bad : Nat} (h : memRead8 m a = .error bad) :
    a > Config.maxAddr ∧ bad = a := by
  unfold memRead8 at h
  split at h
  · cases h; exact ⟨by assumption, rfl⟩
  · cases h

/-- A two-byte read answers exactly when both addresses exist. -/
theorem memRead16_ok {m : Memory} {a : Nat} {w : Word} (h : memRead16 m a = .ok w) :
    a + 1 ≤ Config.maxAddr ∧ w = m.read16 a := by
  unfold memRead16 at h
  split at h
  · cases h
  · split at h
    · cases h
    · cases h; exact ⟨by omega, rfl⟩

/-- A two-byte read that stops reports the lowest address that does not exist. -/
theorem memRead16_error {m : Memory} {a bad : Nat} (h : memRead16 m a = .error bad) :
    a + 1 > Config.maxAddr ∧ bad = max a 0x1000 := by
  unfold memRead16 at h
  split at h
  · cases h
    rename_i h
    exact ⟨by omega, by rw [Nat.max_eq_left]; simp at h; omega⟩
  · split at h
    · cases h
      rename_i h1 h2
      simp only [Config.maxAddr] at h1 h2 ⊢
      exact ⟨by omega, by omega⟩
    · cases h

/-- The range check: when it reports an address, it is the lowest one above 0x0FFF that the access touches. -/
theorem spanFault_some {a n bad : Nat} (h : spanFault a n = some bad) :
    0 < n ∧ a + n - 1 > Config.maxAddr ∧ bad = max a 0x1000 := by
  unfold spanFault at h
  split at h
  · cases h; rename_i h; exact ⟨h.1, h.2, rfl⟩
  · cases h

/-- The range check passes exactly when every address of the access exists. -/
theorem spanFault_none {a n : Nat} (h : spanFault a n = none) :
    n = 0 ∨ a + n ≤ Config.memSize := by
  unfold spanFault at h
  split at h
  · cases h
  · rename_i hn
    simp only [Config.maxAddr, Config.memSize] at hn ⊢
    omega

/-- A read of several bytes that answers gives them in order, and every address exists. -/
theorem readSpan_ok {m : Memory} {a n : Nat} {bs : List Byte} (h : readSpan m a n = .ok bs) :
    (n = 0 ∨ a + n ≤ Config.memSize) ∧ bs = (List.range n).map fun k => m.read (a + k) := by
  unfold readSpan at h
  split at h
  · cases h
  · cases h; exact ⟨spanFault_none (by assumption), rfl⟩

/-- A read of several bytes that stops reports the lowest address that does not exist. -/
theorem readSpan_error {m : Memory} {a n bad : Nat} (h : readSpan m a n = .error bad) :
    0 < n ∧ a + n - 1 > Config.maxAddr ∧ bad = max a 0x1000 := by
  unfold readSpan at h
  split at h
  · cases h; exact spanFault_some (by assumption)
  · cases h

/-- A store of several bytes that answers has written them all, and every address exists. -/
theorem writeSpan_ok {m m' : Memory} {a : Nat} {bs : List Byte} (h : writeSpan m a bs = .ok m') :
    (bs.length = 0 ∨ a + bs.length ≤ Config.memSize) ∧ m' = m.writeList a bs := by
  unfold writeSpan at h
  split at h
  · cases h
  · cases h; exact ⟨spanFault_none (by assumption), rfl⟩

/-- A store of several bytes that stops reports the lowest address that does not exist. -/
theorem writeSpan_error {m : Memory} {a bad : Nat} {bs : List Byte} (h : writeSpan m a bs = .error bad) :
    0 < bs.length ∧ a + bs.length - 1 > Config.maxAddr ∧ bad = max a 0x1000 := by
  unfold writeSpan at h
  split at h
  · cases h; exact spanFault_some (by assumption)
  · cases h

/-! ## The bus, forwards: an access whose addresses all exist answers -/

theorem memRead8_of_le {m : Memory} {a : Nat} (h : a ≤ Config.maxAddr) : memRead8 m a = .ok (m.read a) :=
  if_neg (Nat.not_lt.2 h)

theorem memWrite8_of_le {m : Memory} {a : Nat} {b : Byte} (h : a ≤ Config.maxAddr) :
    memWrite8 m a b = .ok (m.write a b) :=
  if_neg (Nat.not_lt.2 h)

theorem memRead16_of_le {m : Memory} {a : Nat} (h : a + 1 ≤ Config.maxAddr) :
    memRead16 m a = .ok (m.read16 a) := by
  rw [memRead16, if_neg (by omega), if_neg (by omega)]

theorem memWrite16_of_le {m : Memory} {a : Nat} {w : Word} (h : a + 1 ≤ Config.maxAddr) :
    memWrite16 m a w = .ok (m.write16 a w) := by
  rw [memWrite16, if_neg (by omega), if_neg (by omega)]

theorem spanFault_of_fits {a n : Nat} (h : n = 0 ∨ a + n ≤ Config.memSize) : spanFault a n = none := by
  simp only [Config.memSize] at h
  exact if_neg (by simp only [Config.maxAddr]; omega)

theorem spanFault_of_exceeds {a n : Nat} (h0 : 0 < n) (h : Config.memSize < a + n) :
    spanFault a n = some (max a 0x1000) := by
  simp only [Config.memSize] at h
  exact if_pos (by simp only [Config.maxAddr]; omega)

theorem readSpan_of_fits {m : Memory} {a n : Nat} (h : n = 0 ∨ a + n ≤ Config.memSize) :
    readSpan m a n = .ok ((List.range n).map fun k => m.read (a + k)) := by
  rw [readSpan, spanFault_of_fits h]

theorem readSpan_of_exceeds {m : Memory} {a n : Nat} (h0 : 0 < n) (h : Config.memSize < a + n) :
    readSpan m a n = .error (max a 0x1000) := by
  rw [readSpan, spanFault_of_exceeds h0 h]

theorem writeSpan_of_fits {m : Memory} {a : Nat} {bs : List Byte}
    (h : bs.length = 0 ∨ a + bs.length ≤ Config.memSize) : writeSpan m a bs = .ok (m.writeList a bs) := by
  rw [writeSpan, spanFault_of_fits h]

theorem writeSpan_of_exceeds {m : Memory} {a : Nat} {bs : List Byte} (h0 : 0 < bs.length)
    (h : Config.memSize < a + bs.length) : writeSpan m a bs = .error (max a 0x1000) := by
  rw [writeSpan, spanFault_of_exceeds h0 h]

/-! ## Stores keep the canonical form -/

/-- Every store that answers keeps the canonical form. -/
theorem memWrite8_wf {m m' : Memory} {a : Nat} {b : Byte} (hm : m.wf) (h : memWrite8 m a b = .ok m') :
    m'.wf := by
  obtain ⟨ha, rfl⟩ := memWrite8_ok h
  exact Memory.write_wf hm (by simp only [Config.maxAddr, Config.memSize] at *; omega) b

theorem memWrite16_wf {m m' : Memory} {a : Nat} {w : Word} (hm : m.wf) (h : memWrite16 m a w = .ok m') :
    m'.wf := by
  unfold memWrite16 at h
  split at h
  · cases h
  · split at h
    · cases h
    · cases h
      exact Memory.write16_wf hm (by simp only [Config.maxAddr, Config.memSize] at *; omega) w

theorem writeSpan_wf {m m' : Memory} {a : Nat} {bs : List Byte} (hm : m.wf)
    (h : writeSpan m a bs = .ok m') : m'.wf := by
  obtain ⟨ha, rfl⟩ := writeSpan_ok h
  rcases ha with h0 | ha
  · rw [List.length_eq_zero_iff.1 h0]; exact hm
  · exact Memory.writeList_wf hm ha

end Sys2Proof.Machine
end

