-- ==== Sys2Proof/Laws/State.lean ====
section
/-! SUPPORT. One lemma per field per update of the state, each true by unfolding, so that no later proof
unfolds a record update. -/

namespace Sys2Proof.Machine

variable (s : State)

/-! ## `State.setV` -/

@[simp] theorem State.setV_v (x : Reg) (b : Byte) : (s.setV x b).v = s.v.set x.val b := rfl
@[simp] theorem State.setV_i (x : Reg) (b : Byte) : (s.setV x b).i = s.i := rfl
@[simp] theorem State.setV_pc (x : Reg) (b : Byte) : (s.setV x b).pc = s.pc := rfl
@[simp] theorem State.setV_dt (x : Reg) (b : Byte) : (s.setV x b).dt = s.dt := rfl
@[simp] theorem State.setV_st (x : Reg) (b : Byte) : (s.setV x b).st = s.st := rfl
@[simp] theorem State.setV_stack (x : Reg) (b : Byte) : (s.setV x b).stack = s.stack := rfl
@[simp] theorem State.setV_mem (x : Reg) (b : Byte) : (s.setV x b).mem = s.mem := rfl
@[simp] theorem State.setV_fb (x : Reg) (b : Byte) : (s.setV x b).fb = s.fb := rfl
@[simp] theorem State.setV_halted (x : Reg) (b : Byte) : (s.setV x b).halted = s.halted := rfl
@[simp] theorem State.setV_faultCode (x : Reg) (b : Byte) : (s.setV x b).faultCode = s.faultCode := rfl
@[simp] theorem State.setV_faultPc (x : Reg) (b : Byte) : (s.setV x b).faultPc = s.faultPc := rfl
@[simp] theorem State.setV_faultOpcode (x : Reg) (b : Byte) : (s.setV x b).faultOpcode = s.faultOpcode := rfl
@[simp] theorem State.setV_faultAddr (x : Reg) (b : Byte) : (s.setV x b).faultAddr = s.faultAddr := rfl
@[simp] theorem State.setV_faultCycle (x : Reg) (b : Byte) : (s.setV x b).faultCycle = s.faultCycle := rfl
@[simp] theorem State.setV_cycle (x : Reg) (b : Byte) : (s.setV x b).cycle = s.cycle := rfl
@[simp] theorem State.setV_loadError (x : Reg) (b : Byte) : (s.setV x b).loadError = s.loadError := rfl
@[simp] theorem State.setV_draws (x : Reg) (b : Byte) : (s.setV x b).draws = s.draws := rfl

/-! ## `State.setI` -/

@[simp] theorem State.setI_v (w : Word) : (s.setI w).v = s.v := rfl
@[simp] theorem State.setI_i (w : Word) : (s.setI w).i = w := rfl
@[simp] theorem State.setI_pc (w : Word) : (s.setI w).pc = s.pc := rfl
@[simp] theorem State.setI_dt (w : Word) : (s.setI w).dt = s.dt := rfl
@[simp] theorem State.setI_st (w : Word) : (s.setI w).st = s.st := rfl
@[simp] theorem State.setI_stack (w : Word) : (s.setI w).stack = s.stack := rfl
@[simp] theorem State.setI_mem (w : Word) : (s.setI w).mem = s.mem := rfl
@[simp] theorem State.setI_fb (w : Word) : (s.setI w).fb = s.fb := rfl
@[simp] theorem State.setI_halted (w : Word) : (s.setI w).halted = s.halted := rfl
@[simp] theorem State.setI_faultCode (w : Word) : (s.setI w).faultCode = s.faultCode := rfl
@[simp] theorem State.setI_faultPc (w : Word) : (s.setI w).faultPc = s.faultPc := rfl
@[simp] theorem State.setI_faultOpcode (w : Word) : (s.setI w).faultOpcode = s.faultOpcode := rfl
@[simp] theorem State.setI_faultAddr (w : Word) : (s.setI w).faultAddr = s.faultAddr := rfl
@[simp] theorem State.setI_faultCycle (w : Word) : (s.setI w).faultCycle = s.faultCycle := rfl
@[simp] theorem State.setI_cycle (w : Word) : (s.setI w).cycle = s.cycle := rfl
@[simp] theorem State.setI_loadError (w : Word) : (s.setI w).loadError = s.loadError := rfl
@[simp] theorem State.setI_draws (w : Word) : (s.setI w).draws = s.draws := rfl

/-! ## `State.setPc` -/

@[simp] theorem State.setPc_v (w : Word) : (s.setPc w).v = s.v := rfl
@[simp] theorem State.setPc_i (w : Word) : (s.setPc w).i = s.i := rfl
@[simp] theorem State.setPc_pc (w : Word) : (s.setPc w).pc = w := rfl
@[simp] theorem State.setPc_dt (w : Word) : (s.setPc w).dt = s.dt := rfl
@[simp] theorem State.setPc_st (w : Word) : (s.setPc w).st = s.st := rfl
@[simp] theorem State.setPc_stack (w : Word) : (s.setPc w).stack = s.stack := rfl
@[simp] theorem State.setPc_mem (w : Word) : (s.setPc w).mem = s.mem := rfl
@[simp] theorem State.setPc_fb (w : Word) : (s.setPc w).fb = s.fb := rfl
@[simp] theorem State.setPc_halted (w : Word) : (s.setPc w).halted = s.halted := rfl
@[simp] theorem State.setPc_faultCode (w : Word) : (s.setPc w).faultCode = s.faultCode := rfl
@[simp] theorem State.setPc_faultPc (w : Word) : (s.setPc w).faultPc = s.faultPc := rfl
@[simp] theorem State.setPc_faultOpcode (w : Word) : (s.setPc w).faultOpcode = s.faultOpcode := rfl
@[simp] theorem State.setPc_faultAddr (w : Word) : (s.setPc w).faultAddr = s.faultAddr := rfl
@[simp] theorem State.setPc_faultCycle (w : Word) : (s.setPc w).faultCycle = s.faultCycle := rfl
@[simp] theorem State.setPc_cycle (w : Word) : (s.setPc w).cycle = s.cycle := rfl
@[simp] theorem State.setPc_loadError (w : Word) : (s.setPc w).loadError = s.loadError := rfl
@[simp] theorem State.setPc_draws (w : Word) : (s.setPc w).draws = s.draws := rfl

/-! ## `State.advance` -/

@[simp] theorem State.advance_v : (s.advance).v = s.v := rfl
@[simp] theorem State.advance_i : (s.advance).i = s.i := rfl
@[simp] theorem State.advance_pc : (s.advance).pc = s.pc + 2 := rfl
@[simp] theorem State.advance_dt : (s.advance).dt = s.dt := rfl
@[simp] theorem State.advance_st : (s.advance).st = s.st := rfl
@[simp] theorem State.advance_stack : (s.advance).stack = s.stack := rfl
@[simp] theorem State.advance_mem : (s.advance).mem = s.mem := rfl
@[simp] theorem State.advance_fb : (s.advance).fb = s.fb := rfl
@[simp] theorem State.advance_halted : (s.advance).halted = s.halted := rfl
@[simp] theorem State.advance_faultCode : (s.advance).faultCode = s.faultCode := rfl
@[simp] theorem State.advance_faultPc : (s.advance).faultPc = s.faultPc := rfl
@[simp] theorem State.advance_faultOpcode : (s.advance).faultOpcode = s.faultOpcode := rfl
@[simp] theorem State.advance_faultAddr : (s.advance).faultAddr = s.faultAddr := rfl
@[simp] theorem State.advance_faultCycle : (s.advance).faultCycle = s.faultCycle := rfl
@[simp] theorem State.advance_cycle : (s.advance).cycle = s.cycle := rfl
@[simp] theorem State.advance_loadError : (s.advance).loadError = s.loadError := rfl
@[simp] theorem State.advance_draws : (s.advance).draws = s.draws := rfl

/-! ## `State.skip` -/

@[simp] theorem State.skip_v : (s.skip).v = s.v := rfl
@[simp] theorem State.skip_i : (s.skip).i = s.i := rfl
@[simp] theorem State.skip_pc : (s.skip).pc = s.pc + 4 := rfl
@[simp] theorem State.skip_dt : (s.skip).dt = s.dt := rfl
@[simp] theorem State.skip_st : (s.skip).st = s.st := rfl
@[simp] theorem State.skip_stack : (s.skip).stack = s.stack := rfl
@[simp] theorem State.skip_mem : (s.skip).mem = s.mem := rfl
@[simp] theorem State.skip_fb : (s.skip).fb = s.fb := rfl
@[simp] theorem State.skip_halted : (s.skip).halted = s.halted := rfl
@[simp] theorem State.skip_faultCode : (s.skip).faultCode = s.faultCode := rfl
@[simp] theorem State.skip_faultPc : (s.skip).faultPc = s.faultPc := rfl
@[simp] theorem State.skip_faultOpcode : (s.skip).faultOpcode = s.faultOpcode := rfl
@[simp] theorem State.skip_faultAddr : (s.skip).faultAddr = s.faultAddr := rfl
@[simp] theorem State.skip_faultCycle : (s.skip).faultCycle = s.faultCycle := rfl
@[simp] theorem State.skip_cycle : (s.skip).cycle = s.cycle := rfl
@[simp] theorem State.skip_loadError : (s.skip).loadError = s.loadError := rfl
@[simp] theorem State.skip_draws : (s.skip).draws = s.draws := rfl

/-! ## `State.setDt` -/

@[simp] theorem State.setDt_v (b : Byte) : (s.setDt b).v = s.v := rfl
@[simp] theorem State.setDt_i (b : Byte) : (s.setDt b).i = s.i := rfl
@[simp] theorem State.setDt_pc (b : Byte) : (s.setDt b).pc = s.pc := rfl
@[simp] theorem State.setDt_dt (b : Byte) : (s.setDt b).dt = b := rfl
@[simp] theorem State.setDt_st (b : Byte) : (s.setDt b).st = s.st := rfl
@[simp] theorem State.setDt_stack (b : Byte) : (s.setDt b).stack = s.stack := rfl
@[simp] theorem State.setDt_mem (b : Byte) : (s.setDt b).mem = s.mem := rfl
@[simp] theorem State.setDt_fb (b : Byte) : (s.setDt b).fb = s.fb := rfl
@[simp] theorem State.setDt_halted (b : Byte) : (s.setDt b).halted = s.halted := rfl
@[simp] theorem State.setDt_faultCode (b : Byte) : (s.setDt b).faultCode = s.faultCode := rfl
@[simp] theorem State.setDt_faultPc (b : Byte) : (s.setDt b).faultPc = s.faultPc := rfl
@[simp] theorem State.setDt_faultOpcode (b : Byte) : (s.setDt b).faultOpcode = s.faultOpcode := rfl
@[simp] theorem State.setDt_faultAddr (b : Byte) : (s.setDt b).faultAddr = s.faultAddr := rfl
@[simp] theorem State.setDt_faultCycle (b : Byte) : (s.setDt b).faultCycle = s.faultCycle := rfl
@[simp] theorem State.setDt_cycle (b : Byte) : (s.setDt b).cycle = s.cycle := rfl
@[simp] theorem State.setDt_loadError (b : Byte) : (s.setDt b).loadError = s.loadError := rfl
@[simp] theorem State.setDt_draws (b : Byte) : (s.setDt b).draws = s.draws := rfl

/-! ## `State.setSt` -/

@[simp] theorem State.setSt_v (b : Byte) : (s.setSt b).v = s.v := rfl
@[simp] theorem State.setSt_i (b : Byte) : (s.setSt b).i = s.i := rfl
@[simp] theorem State.setSt_pc (b : Byte) : (s.setSt b).pc = s.pc := rfl
@[simp] theorem State.setSt_dt (b : Byte) : (s.setSt b).dt = s.dt := rfl
@[simp] theorem State.setSt_st (b : Byte) : (s.setSt b).st = b := rfl
@[simp] theorem State.setSt_stack (b : Byte) : (s.setSt b).stack = s.stack := rfl
@[simp] theorem State.setSt_mem (b : Byte) : (s.setSt b).mem = s.mem := rfl
@[simp] theorem State.setSt_fb (b : Byte) : (s.setSt b).fb = s.fb := rfl
@[simp] theorem State.setSt_halted (b : Byte) : (s.setSt b).halted = s.halted := rfl
@[simp] theorem State.setSt_faultCode (b : Byte) : (s.setSt b).faultCode = s.faultCode := rfl
@[simp] theorem State.setSt_faultPc (b : Byte) : (s.setSt b).faultPc = s.faultPc := rfl
@[simp] theorem State.setSt_faultOpcode (b : Byte) : (s.setSt b).faultOpcode = s.faultOpcode := rfl
@[simp] theorem State.setSt_faultAddr (b : Byte) : (s.setSt b).faultAddr = s.faultAddr := rfl
@[simp] theorem State.setSt_faultCycle (b : Byte) : (s.setSt b).faultCycle = s.faultCycle := rfl
@[simp] theorem State.setSt_cycle (b : Byte) : (s.setSt b).cycle = s.cycle := rfl
@[simp] theorem State.setSt_loadError (b : Byte) : (s.setSt b).loadError = s.loadError := rfl
@[simp] theorem State.setSt_draws (b : Byte) : (s.setSt b).draws = s.draws := rfl

/-! ## `State.setMem` -/

@[simp] theorem State.setMem_v (m : Memory) : (s.setMem m).v = s.v := rfl
@[simp] theorem State.setMem_i (m : Memory) : (s.setMem m).i = s.i := rfl
@[simp] theorem State.setMem_pc (m : Memory) : (s.setMem m).pc = s.pc := rfl
@[simp] theorem State.setMem_dt (m : Memory) : (s.setMem m).dt = s.dt := rfl
@[simp] theorem State.setMem_st (m : Memory) : (s.setMem m).st = s.st := rfl
@[simp] theorem State.setMem_stack (m : Memory) : (s.setMem m).stack = s.stack := rfl
@[simp] theorem State.setMem_mem (m : Memory) : (s.setMem m).mem = m := rfl
@[simp] theorem State.setMem_fb (m : Memory) : (s.setMem m).fb = s.fb := rfl
@[simp] theorem State.setMem_halted (m : Memory) : (s.setMem m).halted = s.halted := rfl
@[simp] theorem State.setMem_faultCode (m : Memory) : (s.setMem m).faultCode = s.faultCode := rfl
@[simp] theorem State.setMem_faultPc (m : Memory) : (s.setMem m).faultPc = s.faultPc := rfl
@[simp] theorem State.setMem_faultOpcode (m : Memory) : (s.setMem m).faultOpcode = s.faultOpcode := rfl
@[simp] theorem State.setMem_faultAddr (m : Memory) : (s.setMem m).faultAddr = s.faultAddr := rfl
@[simp] theorem State.setMem_faultCycle (m : Memory) : (s.setMem m).faultCycle = s.faultCycle := rfl
@[simp] theorem State.setMem_cycle (m : Memory) : (s.setMem m).cycle = s.cycle := rfl
@[simp] theorem State.setMem_loadError (m : Memory) : (s.setMem m).loadError = s.loadError := rfl
@[simp] theorem State.setMem_draws (m : Memory) : (s.setMem m).draws = s.draws := rfl

/-! ## `State.setFb` -/

@[simp] theorem State.setFb_v (d : Framebuffer) : (s.setFb d).v = s.v := rfl
@[simp] theorem State.setFb_i (d : Framebuffer) : (s.setFb d).i = s.i := rfl
@[simp] theorem State.setFb_pc (d : Framebuffer) : (s.setFb d).pc = s.pc := rfl
@[simp] theorem State.setFb_dt (d : Framebuffer) : (s.setFb d).dt = s.dt := rfl
@[simp] theorem State.setFb_st (d : Framebuffer) : (s.setFb d).st = s.st := rfl
@[simp] theorem State.setFb_stack (d : Framebuffer) : (s.setFb d).stack = s.stack := rfl
@[simp] theorem State.setFb_mem (d : Framebuffer) : (s.setFb d).mem = s.mem := rfl
@[simp] theorem State.setFb_fb (d : Framebuffer) : (s.setFb d).fb = d := rfl
@[simp] theorem State.setFb_halted (d : Framebuffer) : (s.setFb d).halted = s.halted := rfl
@[simp] theorem State.setFb_faultCode (d : Framebuffer) : (s.setFb d).faultCode = s.faultCode := rfl
@[simp] theorem State.setFb_faultPc (d : Framebuffer) : (s.setFb d).faultPc = s.faultPc := rfl
@[simp] theorem State.setFb_faultOpcode (d : Framebuffer) : (s.setFb d).faultOpcode = s.faultOpcode := rfl
@[simp] theorem State.setFb_faultAddr (d : Framebuffer) : (s.setFb d).faultAddr = s.faultAddr := rfl
@[simp] theorem State.setFb_faultCycle (d : Framebuffer) : (s.setFb d).faultCycle = s.faultCycle := rfl
@[simp] theorem State.setFb_cycle (d : Framebuffer) : (s.setFb d).cycle = s.cycle := rfl
@[simp] theorem State.setFb_loadError (d : Framebuffer) : (s.setFb d).loadError = s.loadError := rfl
@[simp] theorem State.setFb_draws (d : Framebuffer) : (s.setFb d).draws = s.draws := rfl

/-! ## `State.noteDraw` -/

@[simp] theorem State.noteDraw_v : (s.noteDraw).v = s.v := rfl
@[simp] theorem State.noteDraw_i : (s.noteDraw).i = s.i := rfl
@[simp] theorem State.noteDraw_pc : (s.noteDraw).pc = s.pc := rfl
@[simp] theorem State.noteDraw_dt : (s.noteDraw).dt = s.dt := rfl
@[simp] theorem State.noteDraw_st : (s.noteDraw).st = s.st := rfl
@[simp] theorem State.noteDraw_stack : (s.noteDraw).stack = s.stack := rfl
@[simp] theorem State.noteDraw_mem : (s.noteDraw).mem = s.mem := rfl
@[simp] theorem State.noteDraw_fb : (s.noteDraw).fb = s.fb := rfl
@[simp] theorem State.noteDraw_halted : (s.noteDraw).halted = s.halted := rfl
@[simp] theorem State.noteDraw_faultCode : (s.noteDraw).faultCode = s.faultCode := rfl
@[simp] theorem State.noteDraw_faultPc : (s.noteDraw).faultPc = s.faultPc := rfl
@[simp] theorem State.noteDraw_faultOpcode : (s.noteDraw).faultOpcode = s.faultOpcode := rfl
@[simp] theorem State.noteDraw_faultAddr : (s.noteDraw).faultAddr = s.faultAddr := rfl
@[simp] theorem State.noteDraw_faultCycle : (s.noteDraw).faultCycle = s.faultCycle := rfl
@[simp] theorem State.noteDraw_cycle : (s.noteDraw).cycle = s.cycle := rfl
@[simp] theorem State.noteDraw_loadError : (s.noteDraw).loadError = s.loadError := rfl
@[simp] theorem State.noteDraw_draws : (s.noteDraw).draws = s.draws + 1 := rfl

/-! ## `State.raise` -/

@[simp] theorem State.raise_v (f : RunFault) (w : Word) : (s.raise f w).v = s.v := rfl
@[simp] theorem State.raise_i (f : RunFault) (w : Word) : (s.raise f w).i = s.i := rfl
@[simp] theorem State.raise_pc (f : RunFault) (w : Word) : (s.raise f w).pc = s.pc := rfl
@[simp] theorem State.raise_dt (f : RunFault) (w : Word) : (s.raise f w).dt = s.dt := rfl
@[simp] theorem State.raise_st (f : RunFault) (w : Word) : (s.raise f w).st = s.st := rfl
@[simp] theorem State.raise_stack (f : RunFault) (w : Word) : (s.raise f w).stack = s.stack := rfl
@[simp] theorem State.raise_mem (f : RunFault) (w : Word) : (s.raise f w).mem = s.mem := rfl
@[simp] theorem State.raise_fb (f : RunFault) (w : Word) : (s.raise f w).fb = s.fb := rfl
@[simp] theorem State.raise_halted (f : RunFault) (w : Word) : (s.raise f w).halted = true := rfl
@[simp] theorem State.raise_faultCode (f : RunFault) (w : Word) : (s.raise f w).faultCode = f.code := rfl
@[simp] theorem State.raise_faultPc (f : RunFault) (w : Word) : (s.raise f w).faultPc = s.pc := rfl
@[simp] theorem State.raise_faultOpcode (f : RunFault) (w : Word) : (s.raise f w).faultOpcode = w := rfl
@[simp] theorem State.raise_faultAddr (f : RunFault) (w : Word) : (s.raise f w).faultAddr = f.addr := rfl
@[simp] theorem State.raise_faultCycle (f : RunFault) (w : Word) : (s.raise f w).faultCycle = s.cycle := rfl
@[simp] theorem State.raise_cycle (f : RunFault) (w : Word) : (s.raise f w).cycle = s.cycle := rfl
@[simp] theorem State.raise_loadError (f : RunFault) (w : Word) : (s.raise f w).loadError = s.loadError := rfl
@[simp] theorem State.raise_draws (f : RunFault) (w : Word) : (s.raise f w).draws = s.draws := rfl

/-! ## `State.beginCycle` -/

@[simp] theorem State.beginCycle_v : (s.beginCycle).v = s.v := rfl
@[simp] theorem State.beginCycle_i : (s.beginCycle).i = s.i := rfl
@[simp] theorem State.beginCycle_pc : (s.beginCycle).pc = s.pc := rfl
@[simp] theorem State.beginCycle_dt : (s.beginCycle).dt = countdown s.dt := rfl
@[simp] theorem State.beginCycle_st : (s.beginCycle).st = countdown s.st := rfl
@[simp] theorem State.beginCycle_stack : (s.beginCycle).stack = s.stack := rfl
@[simp] theorem State.beginCycle_mem : (s.beginCycle).mem = s.mem := rfl
@[simp] theorem State.beginCycle_fb : (s.beginCycle).fb = s.fb := rfl
@[simp] theorem State.beginCycle_halted : (s.beginCycle).halted = s.halted := rfl
@[simp] theorem State.beginCycle_faultCode : (s.beginCycle).faultCode = s.faultCode := rfl
@[simp] theorem State.beginCycle_faultPc : (s.beginCycle).faultPc = s.faultPc := rfl
@[simp] theorem State.beginCycle_faultOpcode : (s.beginCycle).faultOpcode = s.faultOpcode := rfl
@[simp] theorem State.beginCycle_faultAddr : (s.beginCycle).faultAddr = s.faultAddr := rfl
@[simp] theorem State.beginCycle_faultCycle : (s.beginCycle).faultCycle = s.faultCycle := rfl
@[simp] theorem State.beginCycle_cycle : (s.beginCycle).cycle = s.cycle + 1 := rfl
@[simp] theorem State.beginCycle_loadError : (s.beginCycle).loadError = s.loadError := rfl
@[simp] theorem State.beginCycle_draws : (s.beginCycle).draws = s.draws := rfl

end Sys2Proof.Machine
end

