-- ==== Sys2Proof/Laws/Ops.lean ====
section
/-! SUPPORT. What the shared operations over registers, the stack and the timers do. -/

namespace Sys2Proof.Machine

/-- A register read after a register write (10_state.md R10: no two registers alias). -/
@[simp] theorem State.getV_setV (s : State) (x y : Reg) (b : Byte) :
    (s.setV x b).getV y = if y = x then b else s.getV y := by
  simp only [State.getV, State.setV_v, Vector.getElem_set, Fin.ext_iff]
  exact if_congr eq_comm rfl rfl

/-- A push that answers had room and put the value on top; everything else is as it was. -/
theorem State.push_some {s t : State} {w : Word} (h : s.push w = some t) :
    s.sp < Config.stackCap ∧ t = { s with stack := w :: s.stack } := by
  unfold State.push at h
  split at h
  · cases h
  · cases h; exact ⟨Nat.not_le.1 (by assumption), rfl⟩

/-- A push is turned away exactly when 15 entries are held. -/
theorem State.push_none {s : State} {w : Word} (h : s.push w = none) : Config.stackCap ≤ s.sp := by
  unfold State.push at h
  split at h
  · assumption
  · cases h

/-- A pop that answers gives the newest entry and drops it; everything else is as it was. -/
theorem State.pop_some {s t : State} {w : Word} (h : s.pop = some (w, t)) :
    s.stack = w :: t.stack ∧ t = { s with stack := t.stack } := by
  unfold State.pop at h
  split at h
  · cases h
  · cases h; exact ⟨by assumption, rfl⟩

/-- A pop is turned away exactly when the stack is empty. -/
theorem State.pop_none {s : State} (h : s.pop = none) : s.stack = [] := by
  unfold State.pop at h
  split at h
  · assumption
  · cases h

/-- A timer's countdown is subtraction that stops at 0 (45_timers.md R180). -/
theorem countdown_toNat (t : Byte) : (countdown t).toNat = t.toNat - 1 := by
  unfold countdown
  split <;> bv_omega

end Sys2Proof.Machine
end

