-- ==== Sys2Proof/Laws/PerInstr.lean ====
section
/-! SUPPORT. Families of lemmas, one per instruction. `EncodesItsRow`: an instruction's word matches the
row that the opcode table gives it (30_encoding.md R66). -/

namespace Sys2Proof.Laws

theorem and_ones4 : ∀ b : BitVec 4, b &&& 0xF#4 = b := by decide

theorem and_ones8 : ∀ b : BitVec 8, b &&& 0xFF#8 = b := by decide

/-- Format NNN fixes the top nibble alone. -/
theorem packNnn_matches (op : BitVec 4) (nnn : BitVec 12) :
    OpcodeRow.matches ⟨0xF#4 ++ 0x000#12, op ++ 0x000#12⟩ (packNnn op nnn) = true := by
  simp only [OpcodeRow.matches, packNnn, beq_iff_eq]
  rw [BitVec.and_append]
  simp [and_ones4]

/-- Format XKK fixes the top nibble alone. -/
theorem packXkk_matches_op (op : BitVec 4) (x : Reg) (kk : Byte) :
    OpcodeRow.matches ⟨0xF#4 ++ 0x0#4 ++ 0x00#8, op ++ 0x0#4 ++ 0x00#8⟩ (packXkk op x kk) = true := by
  simp only [OpcodeRow.matches, packXkk, beq_iff_eq]
  rw [BitVec.and_append, BitVec.and_append]
  simp [and_ones4]

/-- Format XFF fixes the top nibble and the low byte. -/
theorem packXkk_matches_fn (op : BitVec 4) (x : Reg) (kk : Byte) :
    OpcodeRow.matches ⟨0xF#4 ++ 0x0#4 ++ 0xFF#8, op ++ 0x0#4 ++ kk⟩ (packXkk op x kk) = true := by
  simp only [OpcodeRow.matches, packXkk, beq_iff_eq]
  rw [BitVec.and_append, BitVec.and_append]
  simp [and_ones4, and_ones8]

/-- Format XYF fixes the top and the low nibble. -/
theorem packXyn_matches_fn (op : BitVec 4) (x y : Reg) (n : BitVec 4) :
    OpcodeRow.matches ⟨0xF#4 ++ 0x0#4 ++ 0x0#4 ++ 0xF#4, op ++ 0x0#4 ++ 0x0#4 ++ n⟩ (packXyn op x y n) = true := by
  simp only [OpcodeRow.matches, packXyn, beq_iff_eq]
  rw [BitVec.and_append, BitVec.and_append, BitVec.and_append]
  simp [and_ones4]

/-- Format XYN fixes the top nibble alone. -/
theorem packXyn_matches_op (op : BitVec 4) (x y : Reg) (n : BitVec 4) :
    OpcodeRow.matches ⟨0xF#4 ++ 0x0#4 ++ 0x0#4 ++ 0x0#4, op ++ 0x0#4 ++ 0x0#4 ++ 0x0#4⟩ (packXyn op x y n) = true := by
  simp only [OpcodeRow.matches, packXyn, beq_iff_eq]
  rw [BitVec.and_append, BitVec.and_append, BitVec.and_append]
  simp [and_ones4]

/-- The word of `i` matches `i`'s row, and that row is one of the table's 23. -/
def EncodesItsRow.Statement (i : Instr) : Prop := i.row.matches (encode i) = true ∧ i.row ∈ opcodeTable

theorem EncodesItsRow.cls : Statement .cls := ⟨by decide, by simp [Instr.row, opcodeTable]⟩
theorem EncodesItsRow.ret : Statement .ret := ⟨by decide, by simp [Instr.row, opcodeTable]⟩
theorem EncodesItsRow.jp (nnn : BitVec 12) : Statement (.jp nnn) := ⟨packNnn_matches _ _, by simp [Instr.row, opcodeTable]⟩
theorem EncodesItsRow.call (nnn : BitVec 12) : Statement (.call nnn) := ⟨packNnn_matches _ _, by simp [Instr.row, opcodeTable]⟩
theorem EncodesItsRow.se (x : Reg) (kk : Byte) : Statement (.se x kk) := ⟨packXkk_matches_op _ _ _, by simp [Instr.row, opcodeTable]⟩
theorem EncodesItsRow.sne (x : Reg) (kk : Byte) : Statement (.sne x kk) := ⟨packXkk_matches_op _ _ _, by simp [Instr.row, opcodeTable]⟩
theorem EncodesItsRow.ldImm (x : Reg) (kk : Byte) : Statement (.ldImm x kk) := ⟨packXkk_matches_op _ _ _, by simp [Instr.row, opcodeTable]⟩
theorem EncodesItsRow.addImm (x : Reg) (kk : Byte) : Statement (.addImm x kk) := ⟨packXkk_matches_op _ _ _, by simp [Instr.row, opcodeTable]⟩
theorem EncodesItsRow.ldReg (x y : Reg) : Statement (.ldReg x y) := ⟨packXyn_matches_fn _ _ _ _, by simp [Instr.row, opcodeTable]⟩
theorem EncodesItsRow.andReg (x y : Reg) : Statement (.andReg x y) := ⟨packXyn_matches_fn _ _ _ _, by simp [Instr.row, opcodeTable]⟩
theorem EncodesItsRow.xorReg (x y : Reg) : Statement (.xorReg x y) := ⟨packXyn_matches_fn _ _ _ _, by simp [Instr.row, opcodeTable]⟩
theorem EncodesItsRow.addReg (x y : Reg) : Statement (.addReg x y) := ⟨packXyn_matches_fn _ _ _ _, by simp [Instr.row, opcodeTable]⟩
theorem EncodesItsRow.ldI (nnn : BitVec 12) : Statement (.ldI nnn) := ⟨packNnn_matches _ _, by simp [Instr.row, opcodeTable]⟩
theorem EncodesItsRow.rnd (x : Reg) (kk : Byte) : Statement (.rnd x kk) := ⟨packXkk_matches_op _ _ _, by simp [Instr.row, opcodeTable]⟩
theorem EncodesItsRow.drw (x y : Reg) (n : Nat) : Statement (.drw x y n) := ⟨packXyn_matches_op _ _ _ _, by simp [Instr.row, opcodeTable]⟩
theorem EncodesItsRow.ldVxDt (x : Reg) : Statement (.ldVxDt x) := ⟨packXkk_matches_fn _ _ _, by simp [Instr.row, opcodeTable]⟩
theorem EncodesItsRow.ldDtVx (x : Reg) : Statement (.ldDtVx x) := ⟨packXkk_matches_fn _ _ _, by simp [Instr.row, opcodeTable]⟩
theorem EncodesItsRow.ldStVx (x : Reg) : Statement (.ldStVx x) := ⟨packXkk_matches_fn _ _ _, by simp [Instr.row, opcodeTable]⟩
theorem EncodesItsRow.addI (x : Reg) : Statement (.addI x) := ⟨packXkk_matches_fn _ _ _, by simp [Instr.row, opcodeTable]⟩
theorem EncodesItsRow.ldF (x : Reg) : Statement (.ldF x) := ⟨packXkk_matches_fn _ _ _, by simp [Instr.row, opcodeTable]⟩
theorem EncodesItsRow.ldB (x : Reg) : Statement (.ldB x) := ⟨packXkk_matches_fn _ _ _, by simp [Instr.row, opcodeTable]⟩
theorem EncodesItsRow.ldMemVx (x : Reg) : Statement (.ldMemVx x) := ⟨packXkk_matches_fn _ _ _, by simp [Instr.row, opcodeTable]⟩
theorem EncodesItsRow.ldVxMem (x : Reg) : Statement (.ldVxMem x) := ⟨packXkk_matches_fn _ _ _, by simp [Instr.row, opcodeTable]⟩

end Sys2Proof.Laws
end

