-- ==== Sys2Proof/Laws/Step.lean ====
section
/-! SUPPORT. What one tick can do, said once. -/

namespace Sys2Proof.Machine

/-- A tick on a machine that does not run changes nothing (40_cycle.md R85). -/
theorem step_of_not_running {s : State} (h : s.running = false) : step s = .next s := by
  simp [step, h]

/-- A tick on a running machine is a cycle (40_cycle.md R80). -/
theorem step_of_running {s : State} (h : s.running = true) : step s = runCycle s := by
  simp [step, h]

/-- Everything one tick can do: nothing, on a machine that does not run; the entry of a fetch fault; the
entry of UnknownInstruction; or the decoded instruction, at a `PC` that a fetch can use (40_cycle.md R80). -/
theorem step_cases (s : State) :
    (s.running = false ∧ step s = .next s) ∨
    (s.running = true ∧ s.pc.toNat + 1 > Config.maxAddr ∧
      step s = .next (s.beginCycle.raise (.addressOutOfRange (max s.pc.toNat 0x1000)) 0)) ∨
    (s.running = true ∧ s.pc.toNat + 1 ≤ Config.maxAddr ∧
      (∃ e, decode (s.mem.read16 s.pc.toNat) = .error e) ∧
      step s = .next (s.beginCycle.raise .unknownInstruction (s.mem.read16 s.pc.toNat))) ∨
    (s.running = true ∧ s.pc.toNat + 1 ≤ Config.maxAddr ∧
      ∃ i, decode (s.mem.read16 s.pc.toNat) = .ok i ∧ step s = exec i s.beginCycle) := by
  cases hr : s.running with
  | false => exact .inl ⟨rfl, step_of_not_running hr⟩
  | true =>
    rw [step_of_running hr]
    refine .inr ?_
    unfold runCycle State.fetch
    rw [State.beginCycle_mem, State.beginCycle_pc]
    cases hf : memRead16 s.mem s.pc.toNat with
    | error a =>
      obtain ⟨ha, rfl⟩ := memRead16_error hf
      exact .inl ⟨rfl, ha, rfl⟩
    | ok w =>
      obtain ⟨ha, rfl⟩ := memRead16_ok hf
      simp only [runWord]
      cases hd : decode (s.mem.read16 s.pc.toNat) with
      | error e => exact .inr (.inl ⟨trivial, ha, ⟨e, rfl⟩, rfl⟩)
      | ok i => exact .inr (.inr ⟨trivial, ha, i, rfl, rfl⟩)

/-- A run of `k + 1` ticks is one tick and then `k` (70_reset_and_hazards.md R240). -/
theorem run_succ (k : Nat) (s t : State) :
    Host.Core.run Sys2Proof.core (k + 1) s = .next t ↔
      ∃ s' : State, step s = .next s' ∧ Host.Core.run Sys2Proof.core k s' = .next t := by
  constructor
  · intro h
    simp only [Host.Core.run] at h
    split at h
    · rename_i s' hs
      exact ⟨s', hs, h⟩
    · cases h
    · cases h
  · rintro ⟨s', hs, h⟩
    have hc : Sys2Proof.core.step s = .next s' := hs
    simp only [Host.Core.run, hc]
    exact h

end Sys2Proof.Machine
end

