-- ==== Sys2Proof/Tests/Slice0.lean ====
section
/-! SUPPORT. The model's own tests, each on one step of a small state; expected values are those of
95_test_vectors.md, whose identifier a docstring names, or of the rule it names. Then a witness for every
obligation that has hypotheses, named after it. -/

namespace Sys2Proof.Tests

open Sys2Proof.Machine

/-! ## Helpers -/

/-- The reset state with instruction word `w` at 0x0200. -/
def ready (w : Nat) : State := State.reset.withFetchWord 16 w

/-- The state with some registers set. -/
def regs (l : List (Reg × Byte)) (s : State) : State := l.foldl (fun t p => t.setV p.1 p.2) s

/-- The state with bytes stored from an address up. -/
def bytes (a : Nat) (bs : List Byte) (s : State) : State := s.setMem (s.mem.writeList a bs)

/-- The state after one tick. -/
def tick (s : State) : Option State :=
  match step s with
  | .next t => some t
  | .fault _ => none
  | .refused _ => none

/-- The state after two ticks. -/
def tick2 (s : State) : Option State := (tick s).bind tick

/-- `HALTED` and the fault report: code, pc, opcode, address, cycle. -/
def report (s : State) : List Nat :=
  [s.halted.toNat, s.faultCode.bits.toNat, s.faultPc.toNat, s.faultOpcode.toNat, s.faultAddr.toNat, s.faultCycle]

/-- Some bytes of the packed framebuffer, by their numbers. -/
def packed (ks : List (Fin 256)) (s : State) : List Byte := ks.map s.fb.packedByte

/-- How many rows have a lit pixel. -/
def litRows (s : State) : Nat := s.fb.toList.countP (· ≠ 0)

/-! ## Well-formedness: a sprite of 16 rows is no instruction -/

theorem test_wellFormed_refuses_height_16 : ¬ (Instr.drw 0 0 16).WellFormed := by decide

theorem test_wellFormed_accepts_height_15 : (Instr.drw 15 15 15).WellFormed := by decide

/-! ## Decoding: a word of every row, from the patterns of 30_encoding.md R66 (vectors E1 to E28) -/

theorem test_decode_control :
    decode 0x00E0 = .ok .cls ∧ decode 0x00EE = .ok .ret ∧ decode 0x1ABC = .ok (.jp 0xABC) ∧
    decode 0x2FFF = .ok (.call 0xFFF) ∧ decode 0x332A = .ok (.se 3 0x2A) ∧
    decode 0x4F01 = .ok (.sne 15 1) := by decide

theorem test_decode_registers :
    decode 0x6AFF = .ok (.ldImm 10 0xFF) ∧ decode 0x7F02 = .ok (.addImm 15 2) ∧
    decode 0x8120 = .ok (.ldReg 1 2) ∧ decode 0x8122 = .ok (.andReg 1 2) ∧
    decode 0x8123 = .ok (.xorReg 1 2) ∧ decode 0x8124 = .ok (.addReg 1 2) ∧
    decode 0xCFFF = .ok (.rnd 15 0xFF) := by decide

theorem test_decode_index_and_display :
    decode 0xA123 = .ok (.ldI 0x123) ∧ decode 0xF11E = .ok (.addI 1) ∧ decode 0xF229 = .ok (.ldF 2) ∧
    decode 0xF333 = .ok (.ldB 3) ∧ decode 0xF455 = .ok (.ldMemVx 4) ∧
    decode 0xFF65 = .ok (.ldVxMem 15) ∧ decode 0xD125 = .ok (.drw 1 2 5) := by decide

theorem test_decode_timers :
    decode 0xF107 = .ok (.ldVxDt 1) ∧ decode 0xF215 = .ok (.ldDtVx 2) ∧
    decode 0xF318 = .ok (.ldStVx 3) := by decide

/-- E3 to E26: absent instructions of the CHIP-8 family, and FIXED patterns that match all 16 bits. -/
theorem test_decode_illegal :
    [0x0000, 0x00E1, 0x01E0, 0x0FEE, 0x00FF, 0x5120, 0x8121, 0x8125, 0x8126, 0x812E, 0x9120, 0xB123,
      0xE19E, 0xE1A1, 0xF10A, 0xF100, 0xF175, 0xF1FF].all
      (fun k => decide (decode (BitVec.ofNat 16 k) =
        .error (.unknownInstruction (BitVec.ofNat 16 k)))) = true := by decide

theorem test_decodeTableWord : decodeTableWord 16 0xD125 = some (.drw 1 2 5) ∧
    decodeTableWord 16 0x5120 = none := by decide

/-! ## Control transfer (vectors T1 to T16) -/

/-- T1. -/
theorem test_jp : (tick (ready 0x1ABC)).map (·.pc) = some 0x0ABC := by decide

/-- T6. -/
theorem test_call_at_the_top :
    (tick ((State.reset.setPc 0x0FFE).withFetchWord 16 0x2ABC)).map (fun t => (t.stack, t.pc)) =
      some ([0x1000], 0x0ABC) := by decide

/-- T7. -/
theorem test_call_overflow :
    (tick { ready 0x2300 with stack := List.replicate 15 7 }).map
      (fun t => (report t, t.pc, t.stack.length)) =
      some ([1, 2, 0x0200, 0x2300, 0, 1], 0x0200, 15) := by decide

/-- T9. -/
theorem test_ret :
    (tick { ready 0x00EE with stack := [0x0456, 0x0202] }).map (fun t => (t.pc, t.stack)) =
      some (0x0456, [0x0202]) := by decide

/-- T8. -/
theorem test_ret_underflow :
    (tick (ready 0x00EE)).map report = some [1, 3, 0x0200, 0x00EE, 0, 1] := by decide

/-- T10, T11. -/
theorem test_se :
    (tick (regs [(3, 0x2A)] (ready 0x332A))).map (·.pc) = some 0x0204 ∧
    (tick (regs [(3, 0x2B)] (ready 0x332A))).map (·.pc) = some 0x0202 := by decide

/-- T15: the largest value PC can take. -/
theorem test_se_at_the_top :
    (tick ((State.reset.setPc 0x0FFE).withFetchWord 16 0x3000)).map (·.pc) = some 0x1002 := by decide

/-- T12, T13. -/
theorem test_sne :
    (tick (regs [(3, 0x2A)] (ready 0x432A))).map (·.pc) = some 0x0202 ∧
    (tick (regs [(3, 0x2B)] (ready 0x432A))).map (·.pc) = some 0x0204 := by decide

/-! ## Registers (vectors A1 to A26) -/

/-- A1. -/
theorem test_ldImm :
    (tick (ready 0x6AFF)).map (fun t => (t.v[10], t.pc)) = some (0xFF, 0x0202) := by decide

/-- A4. -/
theorem test_addImm_wraps_without_flag :
    (tick (regs [(0, 0xFF), (15, 7)] (ready 0x7001))).map (fun t => (t.v[0], t.v[15])) =
      some (0, 7) := by decide

/-- A8. -/
theorem test_ldReg : (tick (regs [(14, 0x33), (15, 1)] (ready 0x8EF0))).map (·.v[14]) = some 1 := by decide

/-- A9. -/
theorem test_andReg :
    (tick (regs [(0, 0xCC), (1, 0xAA), (15, 9)] (ready 0x8012))).map (fun t => (t.v[0], t.v[15])) =
      some (0x88, 9) := by decide

/-- A10. -/
theorem test_xorReg :
    (tick (regs [(0, 0xCC), (1, 0xAA), (15, 9)] (ready 0x8013))).map (fun t => (t.v[0], t.v[15])) =
      some (0x66, 9) := by decide

/-- A14, A15: the sums 255 and 256. -/
theorem test_addReg_carry_boundary :
    (tick (regs [(0, 0xFF), (1, 0), (15, 1)] (ready 0x8014))).map (fun t => (t.v[0], t.v[15])) =
      some (0xFF, 0) ∧
    (tick (regs [(0, 0xFF), (1, 1)] (ready 0x8014))).map (fun t => (t.v[0], t.v[15])) =
      some (0, 1) := by decide

/-- A16, A18: x = F and y = F. -/
theorem test_addReg_with_vf :
    (tick (regs [(15, 0xC8), (1, 0x64)] (ready 0x8F14))).map (·.v[15]) = some 1 ∧
    (tick (regs [(0, 0xFA), (15, 0x0A)] (ready 0x80F4))).map (fun t => (t.v[0], t.v[15])) =
      some (4, 1) := by decide

/-- A23: the stated draw 0xB7. -/
theorem test_rnd_of_a_given_draw :
    (rndWith 0xB7 2 0x0F State.reset).v[2] = 0x07 ∧ (rndWith 0xB7 2 0x0F State.reset).pc = 0x0202 := by decide

/-! ## The index register and memory (vectors M1 to M23) -/

/-- M1. -/
theorem test_ldI :
    (tick ((ready 0xA123).setI 0xFFFF)).map (fun t => (t.i, t.pc)) = some (0x0123, 0x0202) := by decide

/-- M4. -/
theorem test_addI_wraps :
    (tick (regs [(0, 2), (15, 9)] ((ready 0xF01E).setI 0xFFFF))).map (fun t => (t.i, t.v[15])) =
      some (1, 9) := by decide

/-- M2. -/
theorem test_addI_above_memory :
    (tick (regs [(0, 1)] ((ready 0xF01E).setI 0x0FFF))).map (fun t => (t.i, t.halted)) =
      some (0x1000, false) := by decide

/-- M6, M8. -/
theorem test_ldF :
    (tick (regs [(0, 0x0F)] (ready 0xF029))).map (·.i) = some 0x004B ∧
    (tick (regs [(0, 0xFF)] (ready 0xF029))).map (·.i) = some 0x04FB := by decide

/-- M12. -/
theorem test_ldB :
    (tick (regs [(0, 0x9D)] ((ready 0xF033).setI 0x0300))).map
      (fun t => [0x300, 0x301, 0x302, 0x303].map t.mem.read) = some [1, 5, 7, 0] := by decide

/-- M15. -/
theorem test_ldB_out_of_range_writes_nothing :
    (tick (regs [(0, 0xFF)] ((ready 0xF033).setI 0x0FFE))).map
      (fun t => (report t, t.mem.read 0xFFE, t.mem.read 0xFFF, t.pc)) =
      some ([1, 4, 0x0200, 0xF033, 0x1000, 1], 0, 0, 0x0200) := by decide

/-- M17: one register, one byte. -/
theorem test_ldMemVx :
    (tick (regs [(0, 1), (1, 2), (2, 3), (3, 0x9C)] ((ready 0xF355).setI 0x0400))).map
      (fun t => ([0x400, 0x401, 0x402, 0x403].map t.mem.read, t.i)) =
      some ([0x9C, 0, 0, 0], 0x0400) := by decide

/-- M19. -/
theorem test_ldMemVx_out_of_range :
    (tick (regs [(3, 0x9C)] ((ready 0xF355).setI 0x1000))).map report =
      some [1, 4, 0x0200, 0xF355, 0x1000, 1] := by decide

/-- M21: one byte, one register. -/
theorem test_ldVxMem :
    (tick (regs [(0, 1), (1, 2), (2, 3)] (bytes 0x400 [0x9C, 0x11] ((ready 0xF365).setI 0x0400)))).map
      (fun t => (t.v[0], t.v[2], t.v[3], t.v[4], t.i)) = some (1, 3, 0x9C, 0, 0x0400) := by decide

/-- M22: the font is in memory. -/
theorem test_ldVxMem_font : (tick ((ready 0xF065).setI 5)).map (·.v[0]) = some 0x20 := by decide

/-! ## The display (vectors G1 to G15) -/

/-- G3: columns wrap in their row. -/
theorem test_drw_wraps :
    (tick (regs [(0, 0x3C)] (bytes 0x300 [0xFF] ((ready 0xD011).setI 0x0300)))).map
      (fun t => (packed [7, 0, 8] t, t.v[15])) = some ([0x0F, 0xF0, 0], 0) := by decide

/-- G14: glyph 0, row by row. -/
theorem test_drw_glyph :
    (tick (ready 0xD005)).map (fun t => (packed [0, 8, 16, 24, 32, 40] t, litRows t, t.v[15])) =
      some ([0xF0, 0x90, 0x90, 0x90, 0xF0, 0], 5, 0) := by decide

/-- G13. -/
theorem test_cls :
    (tick (regs [(15, 5)] ((ready 0x00E0).setFb (Framebuffer.clear.flip 0 0 |>.flip 31 63)))).map
      (fun t => (litRows t, t.v[15], t.pc)) = some (0, 5, 0x0202) := by decide

/-! ## Timers and the cycle (vectors C1 to C11) -/

/-- C1. -/
theorem test_ldVxDt :
    (tick ((ready 0xF307).setDt 9)).map (fun t => (t.dt, t.v[3])) = some (8, 8) := by decide

/-- C3. -/
theorem test_ldDtVx : (tick ((ready 0xF015).setDt 7)).map (·.dt) = some 0 := by decide

/-- C4. -/
theorem test_ldStVx : (tick (regs [(0, 0xFF)] (ready 0xF018))).map (·.st) = some 0xFF := by decide

/-- C6, C7: the countdown of the faulting cycle is kept, and the next tick does nothing. -/
theorem test_illegal_word_halts :
    (tick (((ready 0x00FF).setDt 5).setSt 1)).map (fun t => (report t, t.dt, t.st, t.cycle)) =
      some ([1, 1, 0x0200, 0x00FF, 0, 1], 4, 0, 1) ∧
    tick2 (((ready 0x00FF).setDt 5).setSt 1) = tick (((ready 0x00FF).setDt 5).setSt 1) := by decide

/-- C9: the second byte of the fetch is beyond memory. -/
theorem test_fetch_beyond_memory :
    (tick (State.reset.setPc 0x0FFF)).map report = some [1, 4, 0x0FFF, 0, 0x1000, 1] := by decide

/-- C11: no alignment. -/
theorem test_odd_pc :
    (tick ((State.reset.setPc 0x0201).withFetchWord 16 0x6077)).map (fun t => (t.v[0], t.pc)) =
      some (0x77, 0x0203) := by decide

/-! ## Witnesses

For every obligation with hypotheses, a concrete state and operands that meet all of them together; for one
with several clauses, a witness for each clause, at the boundary of its range. -/

theorem witness_DecodeOfEncodeIsTheInstruction :
    (Instr.drw 15 0 15).WellFormed ∧ (Instr.call 0xFFF).WellFormed := by decide

theorem witness_EncodeOfDecodeIsTheWord : decode 0xD0FF = .ok (.drw 0 15 15) := by decide

theorem witness_RowsDecideWhatDecodes :
    decode 0x8124 = .ok (.addReg 1 2) ∧
    (⟨0xF00F, 0x8004⟩ : OpcodeRow) ∈ opcodeTable ∧ (⟨0xF00F, 0x8004⟩ : OpcodeRow).matches 0x8124 = true := by decide

/-- The boundaries of the listed ranges: 0x0FFF and 0x8FFF are illegal, 0x1000, 0x00E0 and 0xFF65 are not. -/
theorem witness_IllegalWordsAreExactlyTheListedOnes :
    decode 0x0FFF = .error (.unknownInstruction 0x0FFF) ∧
    decode 0x8FFF = .error (.unknownInstruction 0x8FFF) ∧
    decode 0x1000 = .ok (.jp 0) ∧ decode 0x00E0 = .ok .cls ∧ decode 0xFF65 = .ok (.ldVxMem 15) := by decide

/-- At the last fetchable `PC`. -/
theorem witness_TickRunsTheDecodedInstruction :
    let s := (State.reset.setPc 0x0FFE).withFetchWord 16 0x6012
    s.halted = false ∧ s.loadError = false ∧ s.pc.toNat = 0x0FFE ∧
    decode (s.mem.read s.pc.toNat ++ s.mem.read (s.pc.toNat + 1)) = .ok (.ldImm 0 0x12) := by decide

theorem witness_TickOnAnIllegalWordHalts :
    let s := State.reset.setPc 0x0FFE
    s.halted = false ∧ s.loadError = false ∧ s.pc.toNat ≤ 0x0FFE ∧
    decode (s.mem.read s.pc.toNat ++ s.mem.read (s.pc.toNat + 1)) = .error (.unknownInstruction 0) := by decide

/-- At `PC` = 0x0FFF and above. -/
theorem witness_TickBeyondMemoryHaltsAtTheFetch :
    State.reset.halted = false ∧ State.reset.loadError = false ∧
    0x0FFF ≤ (State.reset.setPc 0x0FFF).pc.toNat ∧ 0x0FFF ≤ (State.reset.setPc 0x1002).pc.toNat ∧
    (tick (State.reset.setPc 0x1002)).map (·.faultAddr) = some 0x1002 := by decide

theorem witness_StoppedMachineIgnoresTicks :
    (State.reset.raise .unknownInstruction 0).halted = true ∧
    ({ State.reset with loadError := true } : State).loadError = true := by decide

theorem witness_FaultingCycleChangesNothingElse :
    ∃ t, State.reset.halted = false ∧ step State.reset = .next t ∧ t.halted = true :=
  ⟨_, rfl, rfl, by decide⟩

/-- A fault after the fetch at `PC` = 0x0FFE, and one in the fetch at 0x0FFF. -/
theorem witness_ReportNamesTheFetchedWord :
    (∃ t, (State.reset.setPc 0x0FFE).halted = false ∧ step (State.reset.setPc 0x0FFE) = .next t ∧
      t.halted = true) ∧
    ∃ t, (State.reset.setPc 0x0FFF).halted = false ∧ step (State.reset.setPc 0x0FFF) = .next t ∧
      t.halted = true :=
  ⟨⟨_, rfl, rfl, by decide⟩, ⟨_, rfl, rfl, by decide⟩⟩

/-- A fault of each kind, and none at the values beside it. -/
theorem witness_EachFaultHasItsOneCause :
    (∃ t, State.reset.halted = false ∧ exec .ret State.reset = .next t) ∧
    Instr.raises State.reset .ret = some .stackUnderflow ∧
    Instr.raises { State.reset with stack := List.replicate 15 0 } (.call 0) = some .stackOverflow ∧
    Instr.raises { State.reset with stack := List.replicate 14 0 } (.call 0) = none ∧
    Instr.raises (State.reset.setI 0x0FFE) (.ldB 0) = some (.addressOutOfRange 0x1000) ∧
    Instr.raises (State.reset.setI 0x0FFD) (.ldB 0) = none ∧
    Instr.raises (State.reset.setI 0x1000) (.ldVxMem 0) = some (.addressOutOfRange 0x1000) ∧
    Instr.raises (State.reset.setI 0x0FFF) (.ldMemVx 0) = none ∧
    Instr.raises (State.reset.setI 0x0FF2) (.drw 0 0 15) = some (.addressOutOfRange 0x1000) ∧
    Instr.raises (State.reset.setI 0x0FF1) (.drw 0 0 15) = none ∧
    Instr.raises (State.reset.setI 0xFFFF) (.drw 0 0 0) = none :=
  ⟨⟨_, rfl, rfl⟩, by decide⟩

/-- Both clauses: LD ST leaves `DT` to the countdown, LD DT leaves `ST` to it. -/
theorem witness_TimersOnlyCountDownUnlessWritten :
    (∃ t, (ready 0xF018).running = true ∧ step (ready 0xF018) = .next t ∧
      ∀ x, (ready 0xF018).nextInstr ≠ some (.ldDtVx x)) ∧
    ∃ t, (ready 0xF015).running = true ∧ step (ready 0xF015) = .next t ∧
      ∀ x, (ready 0xF015).nextInstr ≠ some (.ldStVx x) :=
  ⟨⟨_, by decide, rfl, by decide⟩, ⟨_, by decide, rfl, by decide⟩⟩

/-- LD DT, V0; ADD V0, 0; LD V1, DT (45_timers.md R184 with k = 1). -/
def delayProgram : State := bytes 0x200 [0xF0, 0x15, 0x70, 0x00, 0xF1, 0x07] (regs [(0, 9)] State.reset)

theorem witness_DelayTimerReadsWhatIsLeft :
    ∃ s1 s2 s3, delayProgram.nextInstr = some (.ldDtVx 0) ∧ step delayProgram = .next s1 ∧
      DelayRun 1 s1 s2 ∧ s2.nextInstr = some (.ldVxDt 1) ∧ step s2 = .next s3 ∧ s3.v[1] = 7 := by
  refine ⟨_, _, _, by decide, rfl, DelayRun.tick 0 _ _ _ (DelayRun.none _) ?_ ?_ rfl, ?_, rfl, ?_⟩
  all_goals decide

theorem witness_SafeRunCountsItsTicks :
    ∃ t, SafeRun 2 delayProgram t ∧ t.cycle = 2 := ⟨_, ⟨rfl, by decide⟩, by decide⟩

theorem witness_RetPopsThePc :
    State.reset.stack = [] ∧
    ({ State.reset with stack := [0x0456, 0x0202] } : State).stack = 0x0456 :: [0x0202] := by decide

/-- At 14 and at 15 entries; and an older entry. -/
theorem witness_CallPushesTheReturnAddress :
    15 ≤ ({ State.reset with stack := List.replicate 15 0 } : State).sp ∧
    ({ State.reset with stack := List.replicate 14 0 } : State).sp < 15 ∧
    13 < ({ State.reset with stack := List.replicate 14 0 } : State).sp := by decide

theorem witness_RetUndoesCall :
    ∃ s' : State, State.reset.sp < 15 ∧ exec (.call 0x300) State.reset = .next s' ∧
      (State.setI s' 7).stack = s'.stack ∧ s'.stack = [0x0202] :=
  ⟨_, by decide, rfl, rfl, by decide⟩

/-- `I` at 0x0FFD and at 0x0FFE; the memory is canonical and holds something; an address outside the three
bytes. -/
theorem witness_BcdStoresThreeDigitsOrFaults :
    (State.reset.setI 0x0FFD).i.toNat ≤ 0x0FFD ∧ 0x0FFD < (State.reset.setI 0x0FFE).i.toNat ∧
    (ready 0xF033).mem.wf ∧ (ready 0xF033).mem ≠ [] ∧
    ¬ ((State.reset.setI 0x0FFD).indexAddr ≤ 0x0FFC ∧
      0x0FFC < (State.reset.setI 0x0FFD).indexAddr + 3) := by decide

/-- `I` at 0x0FFF and at 0x1000. -/
theorem witness_StoreWritesOneByteOrFaults :
    (State.reset.setI 0x0FFF).i.toNat ≤ 0x0FFF ∧ 0x0FFF < (State.reset.setI 0x1000).i.toNat ∧
    (ready 0xF055).mem.wf ∧ 0x0FFE ≠ (State.reset.setI 0x0FFF).indexAddr := by decide

/-- `I` at 0x0FFF and at 0x1000. -/
theorem witness_LoadReadsOneByteOrFaults :
    (State.reset.setI 0x0FFF).i.toNat ≤ 0x0FFF ∧ 0x0FFF < (State.reset.setI 0x1000).i.toNat := by decide

/-- At 0x0FFE, 0x0FFF and 0x1000, where the clauses meet. -/
theorem witness_BusReadsAndWritesBigEndian :
    (ready 0x6012).mem.wf ∧ (ready 0x6012).mem = [(0x200, 0x60), (0x201, 0x12)] ∧
    (memRead16 (ready 0x6012).mem 0x0FFE).toOption = some 0 ∧
    (memRead16 (ready 0x6012).mem 0x0200).toOption = some 0x6012 ∧
    (memRead16 (ready 0x6012).mem 0x0FFF).toOption = none ∧
    (memRead8 (ready 0x6012).mem 0x0FFF).toOption = some 0 ∧
    (memRead8 (ready 0x6012).mem 0x1000).toOption = none := by decide

/-- Two orders of writing the same bytes, one of them written twice. -/
theorem witness_CanonicalMemoriesThatReadAlikeAreEqual :
    ∃ m m' : Memory, m.wf ∧ m'.wf ∧ m ≠ [] ∧ ∀ a, m.read a = m'.read a :=
  ⟨Memory.write (Memory.write [] 0x300 5) 0x200 7,
    Memory.write (Memory.write (Memory.write [] 0x200 9) 0x300 5) 0x200 7,
    by decide, by decide, by decide, fun _ => rfl⟩

/-- The store at `I` = 0x0FFF, and the fetch of that byte as the second of its word. -/
theorem witness_StoreIsSeenByTheNextFetch :
    ∃ t, ((ready 0xF355).setI 0x0FFF).mem.wf ∧
      ((ready 0xF355).setI 0x0FFF).nextInstr = some (.ldMemVx 3) ∧
      ((ready 0xF355).setI 0x0FFF).i.toNat ≤ 0x0FFF ∧
      step ((ready 0xF355).setI 0x0FFF) = .next t ∧ (0x0FFE#16).toNat ≤ 0x0FFE :=
  ⟨_, by decide, by decide, by decide, rfl, by decide⟩

/-- The clauses: n = 0 with `I` far out of range, the last `I` for 15 rows, the first one too many. -/
theorem witness_DrwXorsTheSpriteOrFaults :
    (0 = 0 ∨ (State.reset.setI 0x5000).i.toNat + 0 - 1 ≤ 0x0FFF) ∧
    (State.reset.setI 0x0FF1).i.toNat + 15 - 1 ≤ 0x0FFF ∧
    (0 < 15 ∧ 0x0FFF < (State.reset.setI 0x0FF2).i.toNat + 15 - 1) := by decide

/-- The sprite 0xFF over one lit pixel, drawn twice (x = 0, y = 1, n = 1). -/
theorem witness_SameSpriteTwiceRestoresTheDisplay :
    let s := ((bytes 0x300 [0xFF] State.reset).setI 0x0300).setFb (Framebuffer.clear.flip 0 0)
    ∃ s' t' : State, s.i.toNat + 1 - 1 ≤ 0x0FFF ∧ exec (.drw 0 1 1) s = .next s' ∧
      s'.fb = s'.fb ∧ s'.i = s.i ∧ s'.mem = s.mem ∧ s'.v[0] = s.v[0] ∧ s'.v[1] = s.v[1] ∧
      exec (.drw 0 1 1) s' = .next t' :=
  ⟨_, _, by decide, rfl, rfl, rfl, rfl, by decide, by decide, rfl⟩

/-- Columns 60 to 67: the right-hand byte wraps to the start of its row. -/
theorem witness_PackedBlitGivesTheSameRow :
    (0x0F : Byte) = 0xFF >>> ((60 : Byte).toNat % 8) ∧ (0xF0 : Byte) = 0xFF <<< (8 - (60 : Byte).toNat % 8) ∧
    (7 : Fin 256).val = ((0 : Byte).toNat + 0) % 32 * 8 + (60 : Byte).toNat % 64 / 8 ∧
    (0 : Fin 256).val = ((0 : Byte).toNat + 0) % 32 * 8 + ((60 : Byte).toNat % 64 / 8 + 1) % 8 := by decide

theorem witness_RegistersChangeOnlyWhereTabulated :
    ∃ t, exec (.addReg 0 1) State.reset = .next t ∧ ¬ (Instr.addReg 0 1).writesV 1 :=
  ⟨_, rfl, by simp [Instr.writesV, Reg.vf]⟩

/-- One that completes and one that faults. -/
theorem witness_PcFollowsItsTable :
    (∃ t, State.reset.halted = false ∧ exec (.jp 0x300) State.reset = .next t ∧ t.halted = false) ∧
    ∃ t, exec .ret State.reset = .next t ∧ t.halted = true :=
  ⟨⟨_, by decide, rfl, by decide⟩, ⟨_, rfl, by decide⟩⟩

theorem witness_MemoryChangesOnlyWhereStored :
    ∃ t, (ready 0xF033).mem.wf ∧ exec (.ldB 0) (ready 0xF033) = .next t ∧
      ¬ ((ready 0xF033).indexAddr ≤ 3 ∧ 3 < (ready 0xF033).indexAddr + (Instr.ldB 0).storeSize) :=
  ⟨_, by decide, rfl, by decide⟩

/-- Each clause's premise: an instruction that does change that piece of state. -/
theorem witness_OtherStateChangesOnlyThroughItsInstructions :
    (∃ t, exec (.ldI 1) State.reset = .next t ∧ t.i ≠ State.reset.i) ∧
    (∃ t, exec (.ldDtVx 0) (regs [(0, 1)] State.reset) = .next t ∧ t.dt ≠ State.reset.dt) ∧
    (∃ t, exec (.ldStVx 0) (regs [(0, 1)] State.reset) = .next t ∧ t.st ≠ State.reset.st) ∧
    (∃ t, exec (.call 1) State.reset = .next t ∧ t.stack ≠ State.reset.stack) ∧
    (∃ t, exec (.drw 0 0 1) State.reset = .next t ∧ t.fb ≠ State.reset.fb) ∧
    ∃ t, exec (.rnd 0 0) State.reset = .next t ∧ t.draws ≠ State.reset.draws :=
  ⟨⟨_, rfl, by decide⟩, ⟨_, rfl, by decide⟩, ⟨_, rfl, by decide⟩, ⟨_, rfl, by decide⟩, ⟨_, rfl, by decide⟩,
    ⟨_, rfl, by decide⟩⟩

/-- A machine inside two calls, at the last fetchable `PC`, about to call again. -/
def deepCall : State :=
  { State.reset with stack := [0x0456, 0x1000], pc := 0x0FFE, mem := [(0xFFE, 0x2A), (0xFFF, 0xBC)] }

theorem deepCall_inv : deepCall.Inv where
  mem := by decide
  sp := by decide
  entries := by simp [deepCall]
  pc := by decide
  report := ⟨rfl, rfl, rfl, rfl, rfl⟩
  loaded := rfl

theorem witness_EveryTickKeepsTheInvariant :
    ∃ t, deepCall.Inv ∧ step deepCall = .next t ∧ t.stack = [0x1000, 0x0456, 0x1000] :=
  ⟨_, deepCall_inv, rfl, by decide⟩

theorem witness_EveryResetMeetsTheInvariant :
    ∃ s, hostReset Config.font [0x60, 0x05, 0x12] State.reset = .machine s ∧
      [0x200, 0x201, 0x202, 0x203].map s.mem.read = [0x60, 0x05, 0x12, 0] :=
  ⟨_, rfl, by decide⟩

theorem witness_ReachableStatesMeetTheInvariant : ∃ s : State, s.Reachable ∧ s.v[0] = 5 :=
  ⟨_, .tick _ _ (.reset Config.font [0x60, 0x05] State.reset _ rfl) rfl, by decide⟩

/-- A program that fills memory, and none; the last font byte, the first zero, the first byte after a
program of two. -/
theorem witness_ResetLoadsTheFontAndTheProgram :
    (List.replicate 3584 (0xAB : Byte)).length ≤ 3584 ∧ ([] : List Byte).length ≤ 3584 ∧
    3583 < (List.replicate 3584 (0xAB : Byte)).length ∧
    (0x050 ≤ 0x1FF ∧ ¬ (0x200 ≤ 0x1FF ∧ 0x1FF < 0x200 + [0x60, 0x05].length)) ∧
    (0x050 ≤ 0x202 ∧ ¬ (0x200 ≤ 0x202 ∧ 0x202 < 0x200 + [0x60, 0x05].length)) := by
  refine ⟨?_, ?_, ?_, by decide, by decide⟩
  · rw [List.length_replicate]
  · exact Nat.zero_le _
  · rw [List.length_replicate]; decide

theorem witness_OversizedProgramIsALoadError : 3584 < (List.replicate 3585 (0xAB : Byte)).length := by
  rw [List.length_replicate]; decide

/-- A machine that is Halted at a `PC` that cannot be fetched from. -/
theorem witness_PlacedInstructionRunsNext :
    ((State.reset.setPc 0x1002).raise (.addressOutOfRange 0x1002) 0).mem.wf ∧
    (Instr.drw 0 0 15).WellFormed ∧
    (((State.reset.setPc 0x1002).raise (.addressOutOfRange 0x1002) 0).withFetchWord 16 0xD00F).nextInstr =
      some (.drw 0 0 15) := by decide

theorem witness_TraceShowsTheStateBeforeExecution :
    (ready 0x6012).nextInstr = some (.ldImm 0 0x12) ∧
    (ready 0x6012).traceOf.map (fun r => (r.cycle, r.pc, r.opcode)) = some (1, 0x0200, 0x6012) := by decide

/-- An idle wait and a read between two ticks: the timer written by the first tick is still there. -/
def idleSession : List HostAction := [.tick, .idle, .readStatus, .tick, .idle]

/-- Each clause: a running machine and a session that idles between its two ticks; one that is Halted. -/
theorem witness_TheMachineNeverWaitsAndIdlingKeepsAllState :
    delayProgram.running = true ∧ (∀ a ∈ idleSession, a.isReset = false) ∧ tickCount idleSession = 2 ∧
    (∃ t, hostSession idleSession delayProgram = .next t ∧ t.dt = 8 ∧ t.cycle = 2) ∧
    (State.reset.raise .unknownInstruction 0).running = false :=
  ⟨by decide, by simp [idleSession, HostAction.isReset], by decide, ⟨_, rfl, by decide, by decide⟩, by decide⟩

/-- Only a reset leaves Halted (60_exceptions.md R212), and it discards all state (70_reset_and_hazards.md R230). -/
theorem test_reset_leaves_halted :
    ∃ t, hostSession [.tick, .reset Config.font [] State.reset]
        ((regs [(3, 7)] State.reset).raise .stackOverflow 0x2300) = .next t ∧
      t.halted = false ∧ t.faultCode = .none ∧ t.v[3] = 0 :=
  ⟨_, rfl, rfl, rfl, by decide⟩

end Sys2Proof.Tests
end

/-! # What a tick does to the state: one spec of `exec`, one of `step`, and the rules of the state -/

namespace Sys2Proof

open Machine

/-! ## What an instruction does, said once -/

/-- What a completed instruction does to everything but `PC`; where it leaves `PC` is `Instr.pcAfter`.
`exec_of_completes` ties the two to `exec`. -/
def Instr.dataAfter (s : State) : Instr → State
  | .jp _ | .se _ _ | .sne _ _ => s
  | .cls => s.setFb Framebuffer.clear
  | .ret => { s with stack := s.stack.tail }
  | .call _ => { s with stack := (s.pc + 2) :: s.stack }
  | .ldImm x kk => s.setV x kk
  | .addImm x kk => s.setV x (sumMod256 (s.getV x) kk)
  | .ldReg x y => s.setV x (s.getV y)
  | .andReg x y => s.setV x (s.getV x &&& s.getV y)
  | .xorReg x y => s.setV x (s.getV x ^^^ s.getV y)
  | .addReg x y =>
    (s.setV x (sumMod256 (s.getV x) (s.getV y))).setV Reg.vf (carryFlag (s.getV x) (s.getV y))
  | .ldI nnn => s.setI (absAddr nnn)
  | .rnd x kk => (s.setV x (s.drawn &&& kk)).noteDraw
  | .drw x y n =>
    let r := blit s.fb (s.getV x) (s.getV y) ((List.range n).map fun k => s.mem.read (s.indexAddr + k))
    (s.setFb r.fb).setV Reg.vf (collisionFlag r.collided)
  | .ldVxDt x => s.setV x s.dt
  | .ldDtVx x => s.setDt (s.getV x)
  | .ldStVx x => s.setSt (s.getV x)
  | .addI x => s.setI (BitVec.ofNat 16 ((s.i.toNat + (s.getV x).toNat) % 65536))
  | .ldF x => s.setI (glyphAddr (s.getV x))
  | .ldB x => s.setMem (s.mem.writeList s.indexAddr (decimalDigits (s.getV x)))
  | .ldMemVx x => s.setMem (s.mem.write s.indexAddr (s.getV x))
  | .ldVxMem x => s.setV x (s.mem.read s.indexAddr)

/-- The state after an instruction that raises nothing. -/
def Instr.completed (s : State) (i : Instr) : State := (i.dataAfter s).setPc (i.pcAfter s)

namespace Machine

@[simp] theorem decimalDigits_length (b : Byte) : (decimalDigits b).length = 3 := rfl

/-- An instruction that raises a fault takes it, and does nothing else (60_exceptions.md R200, R205). -/
theorem exec_of_raises {i : Instr} {s : State} {f : RunFault} (h : i.raises s = some f) :
    exec i s = .next (s.raise f (encode i)) := by
  cases i with
  | ret =>
    obtain ⟨hs, rfl⟩ : s.sp = 0 ∧ RunFault.stackUnderflow = f := by simpa [Instr.raises] using h
    simp [exec, execRet, State.pop, List.length_eq_zero_iff.1 hs]
  | call nnn =>
    obtain ⟨hs, rfl⟩ : 15 ≤ s.sp ∧ RunFault.stackOverflow = f := by simpa [Instr.raises] using h
    simp only [exec, execCall, State.push]
    rw [if_pos (show s.stack.length ≥ Config.stackCap from hs)]
  | drw x y n =>
    obtain ⟨⟨h0, hn⟩, ⟨⟩⟩ := Option.ite_none_right_eq_some.1 h
    simp only [exec, execDrw]
    rw [readSpan_of_exceeds h0 (by simp only [State.indexAddr, Config.memSize]; omega)]
    rfl
  | ldB x =>
    obtain ⟨hn, ⟨⟩⟩ := Option.ite_none_right_eq_some.1 h
    simp only [exec, execLdB]
    rw [writeSpan_of_exceeds (by simp)
      (by simp only [State.indexAddr, Config.memSize, decimalDigits_length]; omega)]
    rfl
  | ldMemVx x =>
    obtain ⟨hn, ⟨⟩⟩ := Option.ite_none_right_eq_some.1 h
    simp [exec, execLdMemVx, memWrite8, State.indexAddr, hn]
  | ldVxMem x =>
    obtain ⟨hn, ⟨⟩⟩ := Option.ite_none_right_eq_some.1 h
    simp [exec, execLdVxMem, memRead8, State.indexAddr, hn]
  | _ => cases h

/-- An instruction that raises nothing completes. -/
theorem exec_of_completes {i : Instr} {s : State} (h : i.raises s = none) :
    exec i s = .next (i.completed s) := by
  cases i with
  | jp nnn => simp [exec, execJp, Instr.completed, Instr.dataAfter, Instr.pcAfter, absAddr]
  | ret =>
    cases hs : s.stack with
    | nil => simp [Instr.raises, State.sp, hs] at h
    | cons w rest =>
      simp [exec, execRet, State.pop, Instr.completed, Instr.dataAfter, Instr.pcAfter, hs]
  | call nnn =>
    have hs : s.sp < 15 := by simpa [Instr.raises] using h
    simp only [exec, execCall, State.push]
    rw [if_neg (show ¬ s.stack.length ≥ Config.stackCap from Nat.not_le.2 hs)]
    simp [Instr.completed, Instr.dataAfter, Instr.pcAfter, absAddr]
  | se x kk =>
    by_cases hv : s.v[x.val] = kk <;>
      simp [exec, execSe, Instr.completed, Instr.dataAfter, Instr.pcAfter, State.getV, hv] <;> rfl
  | sne x kk =>
    by_cases hv : s.v[x.val] = kk <;>
      simp [exec, execSne, Instr.completed, Instr.dataAfter, Instr.pcAfter, State.getV, hv] <;> rfl
  | drw x y n =>
    have hn : n = 0 ∨ s.indexAddr + n ≤ Config.memSize := by
      simp only [Instr.raises, ite_eq_right_iff, reduceCtorEq, imp_false] at h
      simp only [State.indexAddr, Config.memSize]
      omega
    simp only [exec, execDrw]
    rw [readSpan_of_fits hn]
    rfl
  | ldB x =>
    have hn : s.indexAddr + 2 ≤ 0x0FFF := by simpa [Instr.raises, State.indexAddr] using h
    simp only [exec, execLdB]
    rw [writeSpan_of_fits (.inr (Nat.succ_le_succ hn))]
    rfl
  | ldMemVx x =>
    have hn : s.indexAddr ≤ Config.maxAddr := by simpa [Instr.raises, State.indexAddr] using h
    simp only [exec, execLdMemVx]
    rw [memWrite8_of_le hn]
    rfl
  | ldVxMem x =>
    have hn : s.indexAddr ≤ Config.maxAddr := by simpa [Instr.raises, State.indexAddr] using h
    simp only [exec, execLdVxMem]
    rw [memRead8_of_le hn]
    rfl
  | _ => rfl

/-- Everything `exec` can do: take the one fault the instruction raises, or complete. -/
theorem exec_cases {i : Instr} {s t : State} (h : exec i s = .next t) :
    (∃ f, i.raises s = some f ∧ t = s.raise f (encode i)) ∨
    (i.raises s = none ∧ t = i.completed s) := by
  cases hr : i.raises s with
  | some f =>
    rw [exec_of_raises hr] at h
    cases h
    exact .inl ⟨f, rfl, rfl⟩
  | none =>
    rw [exec_of_completes hr] at h
    cases h
    exact .inr ⟨rfl, rfl⟩

/-! ## What a completed instruction leaves unchanged, field by field -/

section Frame

variable (i : Instr) (s : State)

@[simp] theorem completed_pc : (i.completed s).pc = i.pcAfter s := rfl
@[simp] theorem completed_halted : (i.completed s).halted = s.halted := by cases i <;> rfl
@[simp] theorem completed_faultCode : (i.completed s).faultCode = s.faultCode := by cases i <;> rfl
@[simp] theorem completed_faultPc : (i.completed s).faultPc = s.faultPc := by cases i <;> rfl
@[simp] theorem completed_faultOpcode : (i.completed s).faultOpcode = s.faultOpcode := by
  cases i <;> rfl
@[simp] theorem completed_faultAddr : (i.completed s).faultAddr = s.faultAddr := by cases i <;> rfl
@[simp] theorem completed_faultCycle : (i.completed s).faultCycle = s.faultCycle := by cases i <;> rfl
@[simp] theorem completed_cycle : (i.completed s).cycle = s.cycle := by cases i <;> rfl
@[simp] theorem completed_loadError : (i.completed s).loadError = s.loadError := by cases i <;> rfl

variable {i s}

/-- Only the destinations of the "writes" column are written (10_state.md R12). -/
theorem completed_getV_of_not_writesV {r : Reg} (h : ¬ i.writesV r) :
    (i.completed s).getV r = s.getV r := by
  cases i with
  | ldImm | addImm | ldReg | andReg | xorReg | rnd | ldVxDt | ldVxMem =>
    exact (State.getV_setV ..).trans (if_neg h)
  | addReg x y =>
    obtain ⟨hx, hf⟩ := not_or.1 h
    exact ((State.getV_setV ..).trans (if_neg hf)).trans ((State.getV_setV ..).trans (if_neg hx))
  | drw => exact (State.getV_setV ..).trans (if_neg h)
  | _ => rfl

theorem completed_i_ne (h : (i.completed s).i ≠ s.i) :
    (∃ nnn, i = .ldI nnn) ∨ (∃ x, i = .addI x) ∨ ∃ x, i = .ldF x := by
  cases i with
  | ldI nnn => exact .inl ⟨nnn, rfl⟩
  | addI x => exact .inr (.inl ⟨x, rfl⟩)
  | ldF x => exact .inr (.inr ⟨x, rfl⟩)
  | _ => exact absurd rfl h

theorem completed_dt_ne (h : (i.completed s).dt ≠ s.dt) : ∃ x, i = .ldDtVx x := by
  cases i with
  | ldDtVx x => exact ⟨x, rfl⟩
  | _ => exact absurd rfl h

theorem completed_st_ne (h : (i.completed s).st ≠ s.st) : ∃ x, i = .ldStVx x := by
  cases i with
  | ldStVx x => exact ⟨x, rfl⟩
  | _ => exact absurd rfl h

theorem completed_stack_ne (h : (i.completed s).stack ≠ s.stack) :
    i = .ret ∨ ∃ nnn, i = .call nnn := by
  cases i with
  | ret => exact .inl rfl
  | call nnn => exact .inr ⟨nnn, rfl⟩
  | _ => exact absurd rfl h

theorem completed_fb_ne (h : (i.completed s).fb ≠ s.fb) : i = .cls ∨ ∃ x y n, i = .drw x y n := by
  cases i with
  | cls => exact .inl rfl
  | drw x y n => exact .inr ⟨x, y, n, rfl⟩
  | _ => exact absurd rfl h

theorem completed_draws_ne (h : (i.completed s).draws ≠ s.draws) : ∃ x kk, i = .rnd x kk := by
  cases i with
  | rnd x kk => exact ⟨x, kk, rfl⟩
  | _ => exact absurd rfl h

end Frame

/-! ## What keeps the invariant -/

/-- The address a fault reports is one that an access from `PC` or `I` can report: 0x1000, `PC` or `I`,
above 0x0FFF (60_exceptions.md R204). -/
def RunFault.AddrFits (s : State) : RunFault → Prop
  | .addressOutOfRange a => 0x1000 ≤ a ∧ (a = 0x1000 ∨ a = s.pc.toNat ∨ a = s.i.toNat)
  | .unknownInstruction | .stackOverflow | .stackUnderflow => True

/-- A fetch fault's address fits (20_memory.md R46). -/
theorem addrFits_fetch (s : State) :
    (RunFault.addressOutOfRange (max s.pc.toNat 0x1000)).AddrFits s :=
  ⟨Nat.le_max_right .., by rcases Nat.le_total s.pc.toNat 0x1000 with h | h <;> simp [h]⟩

/-- The address of a fault that an access to several bytes from `I` raises fits (60_exceptions.md R204). -/
theorem addrFits_index (s : State) :
    (RunFault.addressOutOfRange (max s.i.toNat 0x1000)).AddrFits s :=
  ⟨Nat.le_max_right .., by rcases Nat.le_total s.i.toNat 0x1000 with h | h <;> simp [h]⟩

/-- Whatever an instruction raises, its address fits. -/
theorem addrFits_of_raises {i : Instr} {s : State} {f : RunFault} (h : i.raises s = some f) :
    f.AddrFits s := by
  cases i with
  | ret | call => obtain ⟨-, ⟨⟩⟩ := Option.ite_none_right_eq_some.1 h; trivial
  | drw | ldB => obtain ⟨-, ⟨⟩⟩ := Option.ite_none_right_eq_some.1 h; exact addrFits_index s
  | ldMemVx | ldVxMem =>
    obtain ⟨hi, ⟨⟩⟩ := Option.ite_none_right_eq_some.1 h
    exact ⟨hi, .inr (.inr rfl)⟩
  | _ => cases h

/-- The report that taking a fault writes fits `HALTED` (60_exceptions.md R205, R207). -/
theorem raise_reportOk {s : State} {f : RunFault} (w : Word) (hc : 0 < s.cycle) (hf : f.AddrFits s) :
    (s.raise f w).ReportOk := by
  cases f with
  | addressOutOfRange a =>
    obtain ⟨ha, hor⟩ := hf
    have hval : (BitVec.ofNat 16 a).toNat = a := by
      rcases hor with rfl | rfl | rfl <;> simp
    have hword : BitVec.ofNat 16 a = 0x1000 ∨ BitVec.ofNat 16 a = s.pc ∨ BitVec.ofNat 16 a = s.i := by
      rcases hor with rfl | rfl | rfl <;> simp
    simpa [State.ReportOk, RunFault.code, RunFault.addr, hc, hval, ha] using hword
  | _ => simp [State.ReportOk, RunFault.code, RunFault.addr, hc]

/-- Taking a fault keeps the invariant. -/
theorem raise_inv {s : State} {f : RunFault} (w : Word) (h : s.Inv) (hc : 0 < s.cycle)
    (hf : f.AddrFits s) : (s.raise f w).Inv where
  mem := h.mem
  sp := h.sp
  entries := h.entries
  pc := h.pc
  report := raise_reportOk w hc hf
  loaded := h.loaded

/-- The count and the countdown keep the invariant of a machine that has not halted. -/
theorem beginCycle_inv {s : State} (h : s.Inv) (hh : s.halted = false) : s.beginCycle.Inv where
  mem := h.mem
  sp := h.sp
  entries := h.entries
  pc := h.pc
  report := by simpa [State.ReportOk, hh] using h.report
  loaded := h.loaded

/-- A completed store keeps memory canonical. -/
theorem completed_mem_wf {i : Instr} {s : State} (hm : s.mem.wf) (h : i.raises s = none) :
    (i.completed s).mem.wf := by
  cases i with
  | ldB x =>
    have hn : s.indexAddr + 2 ≤ 0x0FFF := by simpa [Instr.raises, State.indexAddr] using h
    exact Memory.writeList_wf hm (Nat.succ_le_succ hn)
  | ldMemVx x =>
    have hn : s.indexAddr ≤ 0x0FFF := by simpa [Instr.raises, State.indexAddr] using h
    exact Memory.write_wf hm (Nat.lt_succ_of_le hn) _
  | _ => exact hm

/-- `SP` stays in 0..15 (10_state.md R23). -/
theorem completed_sp_le {i : Instr} {s : State} (hs : s.sp ≤ Config.stackCap)
    (h : i.raises s = none) : (i.completed s).sp ≤ Config.stackCap := by
  cases i with
  | ret => exact (List.tail_sublist s.stack).length_le.trans hs
  | call nnn =>
    have hs : s.sp < 15 := by simpa [Instr.raises] using h
    exact hs
  | _ => exact hs

/-- A CALL from an address that a fetch can use pushes at most 0x1000 (10_state.md R18). -/
theorem completed_entries_le {i : Instr} {s : State} (hpc : s.pc.toNat + 1 ≤ Config.maxAddr)
    (he : ∀ w ∈ s.stack, w.toNat ≤ 0x1000) : ∀ w ∈ (i.completed s).stack, w.toNat ≤ 0x1000 := by
  cases i with
  | ret => exact fun w hw => he w (List.mem_of_mem_tail hw)
  | call nnn =>
    have hpush : (s.pc + 2).toNat ≤ 0x1000 := by simp only [Config.maxAddr] at hpc; bv_omega
    exact List.forall_mem_cons.2 ⟨hpush, he⟩
  | _ => exact he

/-- `PC` goes to at most 0x1002 from an address that a fetch can use (10_state.md R18). -/
theorem pcAfter_le (i : Instr) {s : State} (hpc : s.pc.toNat + 1 ≤ Config.maxAddr)
    (he : ∀ w ∈ s.stack, w.toNat ≤ 0x1000) : (i.pcAfter s).toNat ≤ 0x1002 := by
  simp only [Config.maxAddr] at hpc
  have h2 : (s.pc + 2).toNat ≤ 0x1002 := by bv_omega
  have h4 : (s.pc + 4).toNat ≤ 0x1002 := by bv_omega
  cases i with
  | jp nnn | call nnn =>
    have := nnn.isLt
    exact (Nat.mod_le ..).trans (by omega)
  | ret =>
    cases hs : s.stack with
    | nil => simp [Instr.pcAfter, hs]
    | cons w rest =>
      have := he w (by simp [hs])
      simp [Instr.pcAfter, hs]; omega
  | se | sne => simp only [Instr.pcAfter]; split <;> assumption
  | _ => exact h2

/-- A completed instruction, fetched from memory, keeps the invariant. -/
theorem completed_inv {i : Instr} {s : State} (h : s.Inv) (hh : s.halted = false)
    (hpc : s.pc.toNat + 1 ≤ Config.maxAddr) (hr : i.raises s = none) : (i.completed s).Inv where
  mem := completed_mem_wf h.mem hr
  sp := completed_sp_le h.sp hr
  entries := completed_entries_le hpc h.entries
  pc := pcAfter_le i hpc h.entries
  report := by simpa [State.ReportOk, hh] using h.report
  loaded := by simpa using h.loaded

/-! ## What a tick does, said once -/

theorem running_iff (s : State) : s.running = true ↔ s.halted = false ∧ s.loadError = false := by
  simp [State.running]

/-- Everything a tick leads to: the same state, on a machine that does not run; the entry of a fault
whose address fits; or a completed instruction, fetched from memory (40_cycle.md R80). -/
theorem step_next_cases {s t : State} (h : step s = .next t) :
    (s.running = false ∧ t = s) ∨
    (s.running = true ∧ ∃ f w, f.AddrFits s.beginCycle ∧ t = s.beginCycle.raise f w) ∨
    (s.running = true ∧ s.pc.toNat + 1 ≤ Config.maxAddr ∧ ∃ i,
      decode (s.mem.read16 s.pc.toNat) = .ok i ∧ i.raises s.beginCycle = none ∧
      t = i.completed s.beginCycle) := by
  rcases step_cases s with ⟨hr, hs⟩ | ⟨hr, -, hs⟩ | ⟨hr, -, -, hs⟩ | ⟨hr, hpc, i, hd, hs⟩ <;>
    rw [hs] at h
  · cases h; exact .inl ⟨hr, rfl⟩
  · cases h; exact .inr (.inl ⟨hr, _, _, addrFits_fetch s.beginCycle, rfl⟩)
  · cases h; exact .inr (.inl ⟨hr, .unknownInstruction, _, trivial, rfl⟩)
  · rcases exec_cases h with ⟨f, hf, ht⟩ | ⟨hn, ht⟩
    · exact .inr (.inl ⟨hr, f, _, addrFits_of_raises hf, ht⟩)
    · exact .inr (.inr ⟨hr, hpc, i, hd, hn, ht⟩)

/-- A tick that leads to a running machine completed an instruction of a running machine. -/
theorem step_to_running {s t : State} (h : step s = .next t) (ht : t.running = true) :
    s.running = true ∧ ∃ i : Instr, t = i.completed s.beginCycle := by
  rcases step_next_cases h with ⟨hr, rfl⟩ | ⟨-, f, w, -, rfl⟩ | ⟨hr, -, i, -, -, ht⟩
  · rw [hr] at ht; cases ht
  · simp [State.running] at ht
  · exact ⟨hr, i, ht⟩

/-- A tick keeps the invariant, whichever of the three things it does. -/
theorem step_inv {s t : State} (hi : s.Inv) (h : step s = .next t) : t.Inv := by
  rcases step_next_cases h with ⟨-, rfl⟩ | ⟨hr, f, w, hf, rfl⟩ | ⟨hr, hpc, i, -, hn, rfl⟩
  · exact hi
  · exact raise_inv w (beginCycle_inv hi ((running_iff s).1 hr).1) (Nat.succ_pos _) hf
  · have hh := ((running_iff s).1 hr).1
    exact completed_inv (beginCycle_inv hi hh) hh hpc hn

/-! ## The invariant at reset -/

theorem reset_inv : State.reset.Inv where
  mem := Memory.wf_nil
  sp := Nat.zero_le _
  entries := by simp [State.reset]
  pc := by decide
  report := by simp [State.ReportOk, State.reset]
  loaded := rfl

/-- The invariant speaks of memory by its canonical form alone. -/
theorem inv_with_mem {s : State} {m : Memory} (h : s.Inv) (hm : m.wf) : ({ s with mem := m }).Inv where
  mem := hm
  sp := h.sp
  entries := h.entries
  pc := h.pc
  report := h.report
  loaded := h.loaded

/-- The memory that an accepted reset loads is canonical (70_reset_and_hazards.md R231). -/
theorem loaded_mem_wf (font : Font) {prog : List Byte} (h : prog.length ≤ Config.progMax) :
    ((Memory.writeList [] Config.fontBase font.toList).writeList Config.progBase prog).wf := by
  have hfont : Config.fontBase + font.toList.length ≤ Config.memSize := by simp
  have hprog : Config.progBase + prog.length ≤ Config.memSize := Nat.add_le_add_left h _
  exact Memory.writeList_wf (Memory.writeList_wf Memory.wf_nil hfont) hprog

/-- What an accepted reset gives (70_reset_and_hazards.md R231). -/
theorem hostReset_machine {font : Font} {prog : List Byte} {u s : State}
    (h : hostReset font prog u = .machine s) :
    prog.length ≤ Config.progMax ∧ s = { State.reset with
      mem := (Memory.writeList [] Config.fontBase font.toList).writeList Config.progBase prog } := by
  unfold hostReset at h
  split at h
  · cases h
  · cases h; exact ⟨Nat.not_lt.1 (by assumption), rfl⟩

/-! ## Canonical memories -/

/-- In canonical form an entry's address reads otherwise than unlisted. -/
theorem Memory.read_head_ne {k : Nat} {b : Byte} {rest : Memory} (h : Memory.wf ((k, b) :: rest)) :
    Memory.read ((k, b) :: rest) k ≠ Memory.unlisted k := by
  rw [Memory.read_cons, if_pos rfl]
  exact (h.2 (k, b) List.mem_cons_self).2

/-- The rest of a canonical memory is canonical. -/
theorem Memory.wf_tail {c : Host.Cell} {rest : Memory} (h : Memory.wf (c :: rest)) : rest.wf :=
  ⟨(Memory.rising_tail h.1).1, fun d hd => h.2 d (List.mem_cons_of_mem _ hd)⟩

/-- Below its first address a canonical memory lists nothing. -/
theorem Memory.read_below {k a : Nat} {b : Byte} {rest : Memory} (h : Memory.wf ((k, b) :: rest))
    (ha : a < k) : Memory.read ((k, b) :: rest) a = Memory.unlisted a := by
  refine Memory.read_of_not_listed fun c hc => ?_
  rcases List.mem_cons.1 hc with rfl | hc
  · exact Nat.ne_of_gt ha
  · exact Nat.ne_of_gt (ha.trans ((Memory.rising_tail h.1).2 c hc))

/-- The rest of a canonical memory does not list the first address again. -/
theorem Memory.read_rest_head {k : Nat} {b : Byte} {rest : Memory} (h : Memory.wf ((k, b) :: rest)) :
    Memory.read rest k = Memory.unlisted k :=
  Memory.read_of_not_listed fun c hc => Nat.ne_of_gt ((Memory.rising_tail h.1).2 c hc)

/-- Canonical memories that read alike start at the same address: the lower of two different first
addresses would read as unlisted in one of them only. -/
theorem Memory.head_addr_le {k k' : Nat} {b b' : Byte} {rest rest' : Memory}
    (h : Memory.wf ((k, b) :: rest)) (h' : Memory.wf ((k', b') :: rest'))
    (hread : ∀ a, Memory.read ((k, b) :: rest) a = Memory.read ((k', b') :: rest') a) : k' ≤ k :=
  Nat.not_lt.1 fun hlt => Memory.read_head_ne h ((hread k).trans (Memory.read_below h' hlt))

/-- Extensionality of the canonical form: the first entries agree, and so do the rests. -/
theorem Memory.wf_ext {m m' : Memory} (h : m.wf) (h' : m'.wf) (hread : ∀ a, m.read a = m'.read a) :
    m = m' := by
  induction m generalizing m' with
  | nil =>
    cases m' with
    | nil => rfl
    | cons c' rest' => exact absurd (hread c'.1).symm (Memory.read_head_ne h')
  | cons c rest ih =>
    cases m' with
    | nil => exact absurd (hread c.1) (Memory.read_head_ne h)
    | cons c' rest' =>
      obtain ⟨k, b⟩ := c
      obtain ⟨k', b'⟩ := c'
      obtain rfl : k = k' := Nat.le_antisymm
        (Memory.head_addr_le h' h fun a => (hread a).symm) (Memory.head_addr_le h h' hread)
      obtain rfl : b = b' := by simpa [Memory.read_cons] using hread k
      have hrest : ∀ a, Memory.read rest a = Memory.read rest' a := by
        intro a
        by_cases ha : k = a
        · subst ha
          rw [Memory.read_rest_head h, Memory.read_rest_head h']
        · simpa [Memory.read_cons, ha] using hread a
      rw [ih (Memory.wf_tail h) (Memory.wf_tail h') hrest]

/-! ## The packed view -/

/-- The byte and the bit of the packed view that hold a pixel (10_state.md R27). -/
theorem packedByte_getLsbD (d : Framebuffer) (row : Fin 32) (col : Fin 64) (k : Fin 256)
    (hk : k.val = row.val * 8 + col.val / 8) :
    (d.packedByte k).getLsbD (7 - col.val % 8) = d.pixel row col := by
  have hrow : k.val / 8 = row.val := by omega
  have hbit : 56 - 8 * (k.val % 8) + (7 - col.val % 8) = 63 - col.val := by omega
  have hlt : 7 - col.val % 8 < 8 := by omega
  simp only [Framebuffer.packedByte, Framebuffer.pixel, BitVec.getLsbD_extractLsb', hrow, hbit, hlt,
    decide_true, Bool.true_and]

/-- Byte `k` of `fb_out` is byte `k` of the packed view (10_state.md R30). -/
theorem fbOut_getD (s : State) (k : Fin 256) : s.fbOut.getD k.val 0 = s.fb.packedByte k := by
  simp [State.fbOut]

end Machine

open Machine

/-- Settles O52: a tick does nothing, takes a fault or completes an instruction, and each keeps the
invariant. -/
theorem everyTickKeepsTheInvariant : Obligations.EveryTickKeepsTheInvariant :=
  fun _ _ hi h => step_inv hi h

/-- Settles O53: `State.reset` meets the invariant, and an accepted reset differs from it only in its
memory, which is canonical. -/
theorem everyResetMeetsTheInvariant : Obligations.EveryResetMeetsTheInvariant := by
  refine ⟨reset_inv, fun font prog u s h => ?_⟩
  obtain ⟨hprog, rfl⟩ := hostReset_machine h
  exact inv_with_mem reset_inv (loaded_mem_wf font hprog)

/-- Settles O54, by induction on how the state is reached. -/
theorem reachableStatesMeetTheInvariant : Obligations.ReachableStatesMeetTheInvariant := by
  intro s hs
  induction hs with
  | reset font prog u s h => exact everyResetMeetsTheInvariant.2 font prog u s h
  | tick s t _ h ih => exact everyTickKeepsTheInvariant s t ih h

/-- Settles O17, by induction on the number of ticks: each led to a running machine, so it completed an
instruction, which changes neither `CYCLE` nor the report. -/
theorem safeRunCountsItsTicks : Obligations.SafeRunCountsItsTicks := by
  intro k
  induction k with
  | zero =>
    rintro s t ⟨h, ht⟩
    cases h
    exact ⟨ht, rfl, rfl, rfl, rfl, rfl, rfl⟩
  | succ k ih =>
    rintro s t ⟨h, ht⟩
    obtain ⟨s', hs, hrun⟩ := (run_succ k s t).1 h
    obtain ⟨hr', hcycle, hreport⟩ := ih s' t ⟨hrun, ht⟩
    obtain ⟨hr, i, rfl⟩ := step_to_running hs hr'
    refine ⟨hr, ?_, by simpa using hreport⟩
    rw [hcycle, completed_cycle, State.beginCycle_cycle]
    omega

/-- Settles O38: the canonical form is extensional. -/
theorem canonicalMemoriesThatReadAlikeAreEqual :
    Obligations.CanonicalMemoriesThatReadAlikeAreEqual :=
  fun _ _ h h' hread => Memory.wf_ext h h' hread

/-- Settles O43: `fb_out` lists the packed bytes, and each pixel has its byte and bit in them. -/
theorem packedBytesHoldThePixels : Obligations.PackedBytesHoldThePixels := by
  intro s row col
  refine ⟨by simp [State.fbOut], ?_⟩
  rw [fbOut_getD s ⟨row.val * 8 + col.val / 8, by omega⟩]
  exact packedByte_getLsbD s.fb row col _ rfl

/-- Settles O48: a fault writes no register, and a completed instruction only its tabulated ones. -/
theorem registersChangeOnlyWhereTabulated : Obligations.RegistersChangeOnlyWhereTabulated := by
  intro i s t r h hw
  rcases exec_cases h with ⟨f, -, rfl⟩ | ⟨-, rfl⟩
  · rfl
  · exact completed_getV_of_not_writesV hw

/-- Settles O49: a fault halts and leaves `PC`, a completed instruction halts nothing. -/
theorem pcFollowsItsTable : Obligations.PcFollowsItsTable := by
  intro i s t hh h
  rcases exec_cases h with ⟨f, -, rfl⟩ | ⟨-, rfl⟩
  · simp
  · simp [hh]

/-- Settles O51: a fault changes none of these fields, a completed instruction only its own. -/
theorem otherStateChangesOnlyThroughItsInstructions :
    Obligations.OtherStateChangesOnlyThroughItsInstructions := by
  intro i s t h
  rcases exec_cases h with ⟨f, -, rfl⟩ | ⟨-, rfl⟩
  · simp
  · exact ⟨completed_i_ne, completed_dt_ne, completed_st_ne, completed_stack_ne, completed_fb_ne,
      completed_draws_ne, completed_cycle i s, completed_loadError i s⟩

end Sys2Proof

/-! # Memory: the two-byte bus, the fetch, and what a store leaves -/

namespace Sys2Proof

open Machine

/-! ## The two bytes of a word as numbers -/

theorem joinBytes_toNat (hi lo : Byte) : (joinBytes hi lo).toNat = hi.toNat * 256 + lo.toNat := by
  rw [joinBytes, BitVec.toNat_append, ← Nat.shiftLeft_add_eq_or_of_lt lo.isLt, Nat.shiftLeft_eq]

theorem hiByte_toNat (w : Word) : (hiByte w).toNat = w.toNat / 256 := by
  have := w.isLt
  rw [hiByte, BitVec.extractLsb'_toNat, Nat.shiftRight_eq_div_pow]
  omega

theorem loByte_toNat (w : Word) : (loByte w).toNat = w.toNat % 256 := fieldKk_toNat w

namespace Machine

/-! ## The two-byte bus -/

/-- A two-byte read past memory gives the lowest address that does not exist (20_memory.md R44). -/
theorem memRead16_of_exceeds {m : Memory} {a : Nat} (h : Config.maxAddr ≤ a) :
    memRead16 m a = .error (max a 0x1000) := by
  cases hr : memRead16 m a with
  | ok w => exact absurd (memRead16_ok hr).1 (Nat.not_le.2 (Nat.lt_succ_of_le h))
  | error bad => rw [(memRead16_error hr).2]

/-- A two-byte store makes the range check of a two-byte read (20_memory.md R45). -/
theorem memWrite16_of_read16_error {m : Memory} {a bad : Nat} (h : memRead16 m a = .error bad)
    (w : Word) : memWrite16 m a w = .error bad := by
  unfold memRead16 at h
  split at h
  next hfirst => cases h; exact if_pos hfirst
  next hfirst =>
    split at h
    next hsecond => cases h; exact (if_neg hfirst).trans (if_pos hsecond)
    next => cases h

/-- A read after a two-byte store: high byte first, every other address as before (20_memory.md R45). -/
theorem Memory.read_write16 {m : Memory} (h : m.wf) (a : Nat) (w : Word) (c : Nat) :
    (m.write16 a w).read c = if c = a + 1 then loByte w else if c = a then hiByte w else m.read c := by
  rw [Memory.write16, Memory.read_write (Memory.rising_write h.1 a _), Memory.read_write h.1]

/-! ## A tick whose fetch fails, and a tick whose instruction is known -/

/-- A running machine whose `PC` has no two bytes in memory takes the fetch fault (20_memory.md R46). -/
theorem step_of_unfetchable {s : State} (hr : s.running = true) (hpc : Config.maxAddr ≤ s.pc.toNat) :
    step s = .next (s.beginCycle.raise (.addressOutOfRange (max s.pc.toNat 0x1000)) 0) := by
  have hbeyond : ¬ s.pc.toNat + 1 ≤ Config.maxAddr := Nat.not_le.2 (Nat.lt_succ_of_le hpc)
  rcases step_cases s with ⟨hn, -⟩ | ⟨-, -, hs⟩ | ⟨-, hle, -⟩ | ⟨-, hle, -⟩
  · rw [hr] at hn; cases hn
  · exact hs
  · exact absurd hle hbeyond
  · exact absurd hle hbeyond

/-- The address of a fetch fault: 0x1000 for the first byte past memory, else `PC` (20_memory.md R46). -/
theorem fetchFault_addr {pc : Word} (h : Config.maxAddr ≤ pc.toNat) :
    (RunFault.addressOutOfRange (max pc.toNat 0x1000)).addr = if pc = 0x0FFF then 0x1000 else pc := by
  split
  next hpc => subst hpc; rfl
  next hpc =>
    have hge : 0x1000 ≤ pc.toNat := by simp only [Config.maxAddr] at h; bv_omega
    rw [Nat.max_eq_left hge, RunFault.addr, BitVec.ofNat_toNat, BitVec.setWidth_eq]

theorem countdown_eq (t : Byte) : countdown t = BitVec.ofNat 8 (t.toNat - 1) := by
  have := t.isLt
  apply BitVec.eq_of_toNat_eq
  rw [countdown_toNat, BitVec.toNat_ofNat]
  omega

/-- A tick executes the instruction that `nextInstr` names (40_cycle.md R80). -/
theorem step_of_nextInstr {s : State} {i : Instr} (h : s.nextInstr = some i) :
    step s = exec i s.beginCycle := by
  unfold State.nextInstr at h
  split at h
  next hr =>
    rw [step_of_running hr, runCycle, show s.beginCycle.fetch = s.fetch from rfl]
    cases hf : s.fetch with
    | error a => simp [hf] at h
    | ok w =>
      cases hd : decode w with
      | error e => simp [hf, hd] at h
      | ok j =>
        obtain rfl : j = i := by simpa [hf, hd] using h
        simp only [runWord, hd]
  next => cases h

/-! ## What a completed store leaves -/

/-- LD [I], Vx with `I` in memory completes (43_index_and_memory.md R144). -/
theorem exec_ldMemVx_of_le {s : State} (x : Reg) (h : s.i.toNat ≤ Config.maxAddr) :
    exec (.ldMemVx x) s = .next (Instr.completed s (.ldMemVx x)) :=
  exec_of_completes (if_neg (Nat.not_lt.2 h))

/-- Outside the bytes that the instruction stores, memory reads as before (20_memory.md R49). -/
theorem completed_read_of_outside {i : Instr} {s : State} (hm : s.mem.wf) {a : Nat}
    (ha : ¬ (s.indexAddr ≤ a ∧ a < s.indexAddr + i.storeSize)) :
    (i.completed s).mem.read a = s.mem.read a := by
  cases i with
  | ldB x => exact (Memory.read_writeList hm.1 ..).trans (if_neg ha)
  | ldMemVx x =>
    have hne : a ≠ s.indexAddr := by rintro rfl; exact ha ⟨le_rfl, Nat.lt_succ_self _⟩
    exact (Memory.read_write hm.1 ..).trans (if_neg hne)
  | _ => rfl

end Machine

open Machine

/-- Settles O8: the fetch fault's entry, with the countdown and the reported address written out. -/
theorem tickBeyondMemoryHaltsAtTheFetch : Obligations.TickBeyondMemoryHaltsAtTheFetch := by
  intro s hh hl hpc
  rw [step_of_unfetchable ((running_iff s).2 ⟨hh, hl⟩) hpc, State.raise, fetchFault_addr hpc]
  simp only [State.beginCycle, countdown_eq, RunFault.code]

/-- Settles O37: the range check gives the larger of the address and 0x1000, and a store that passes it
is read back by the rules of one and of two bytes. -/
theorem busReadsAndWritesBigEndian : Obligations.BusReadsAndWritesBigEndian := by
  intro m a b w hm
  refine ⟨rfl, fun ha => ?_, ?_, fun ha => ?_, fun ha => ⟨?_, ?_⟩⟩
  · have hread : memRead16 m a = .error a := by
      rw [memRead16_of_exceeds (Nat.le_of_lt ha), Nat.max_eq_left ha]
    exact ⟨if_pos ha, memWrite16_of_read16_error hread w, hread⟩
  · rintro rfl
    have hread : memRead16 m 0x0FFF = .error 0x1000 := memRead16_of_exceeds le_rfl
    exact ⟨hread, memWrite16_of_read16_error hread w⟩
  · refine ⟨m.write a b, memWrite8_of_le ha, ?_, fun c hc => ?_⟩
    · rw [Memory.read_write hm.1, if_pos rfl]
    · rw [Memory.read_write hm.1, if_neg hc]
  · exact ⟨m.read16 a, memRead16_of_le (Nat.succ_le_succ ha), joinBytes_toNat _ _⟩
  · refine ⟨m.write16 a w, memWrite16_of_le (Nat.succ_le_succ ha), ?_, ?_, fun c hca hcs => ?_⟩
    · rw [Memory.read_write16 hm, if_neg (Nat.succ_ne_self a).symm, if_pos rfl, hiByte_toNat]
    · rw [Memory.read_write16 hm, if_pos rfl, loByte_toNat]
    · rw [Memory.read_write16 hm, if_neg hcs, if_neg hca]

/-- Settles O39: the tick completes the store, and the fetch reads each of its two bytes after that
write. -/
theorem storeIsSeenByTheNextFetch : Obligations.StoreIsSeenByTheNextFetch := by
  intro s t x hm hn hi h p hp
  rw [step_of_nextInstr hn, exec_ldMemVx_of_le (s := s.beginCycle) x hi] at h
  cases h
  have hread (a : Nat) : (Instr.completed s.beginCycle (.ldMemVx x)).mem.read a =
      if a = s.indexAddr then s.v[x.val] else s.mem.read a := Memory.read_write hm.1 ..
  rw [State.fetch, memRead16_of_le (Nat.succ_le_succ hp), Memory.read16, hread, hread, joinBytes]

/-- Settles O50: a fault leaves memory as it is, a completed instruction changes only the bytes it
stores. -/
theorem memoryChangesOnlyWhereStored : Obligations.MemoryChangesOnlyWhereStored := by
  intro i s t hm h
  rcases exec_cases h with ⟨f, -, rfl⟩ | ⟨hn, rfl⟩
  · exact ⟨hm, fun _ _ => rfl⟩
  · exact ⟨completed_mem_wf hm hn, fun a ha => completed_read_of_outside hm ha⟩

end Sys2Proof

/-! # The decoder, the encoder and the opcode table agree -/

namespace Sys2Proof

open Laws

/-! ## The fields of a packed word -/

@[simp] theorem fieldOp_packNnn (op : BitVec 4) (nnn : BitVec 12) : fieldOp (packNnn op nnn) = op :=
  fieldOp_nnn op nnn

@[simp] theorem fieldNnn_packNnn (op : BitVec 4) (nnn : BitVec 12) :
    fieldNnn (packNnn op nnn) = nnn :=
  fieldNnn_nnn op nnn

@[simp] theorem fieldOp_packXkk (op : BitVec 4) (x : Reg) (kk : Byte) :
    fieldOp (packXkk op x kk) = op :=
  fieldOp_xkk op x kk

@[simp] theorem fieldX_packXkk (op : BitVec 4) (x : Reg) (kk : Byte) :
    fieldX (packXkk op x kk) = x :=
  fieldX_xkk op x kk

@[simp] theorem fieldKk_packXkk (op : BitVec 4) (x : Reg) (kk : Byte) :
    fieldKk (packXkk op x kk) = kk :=
  fieldKk_xkk op x kk

@[simp] theorem fieldOp_packXyn (op : BitVec 4) (x y : Reg) (n : BitVec 4) :
    fieldOp (packXyn op x y n) = op :=
  fieldOp_xyn op x y n

@[simp] theorem fieldX_packXyn (op : BitVec 4) (x y : Reg) (n : BitVec 4) :
    fieldX (packXyn op x y n) = x :=
  fieldX_xyn op x y n

@[simp] theorem fieldY_packXyn (op : BitVec 4) (x y : Reg) (n : BitVec 4) :
    fieldY (packXyn op x y n) = y :=
  fieldY_xyn op x y n

@[simp] theorem fieldN_packXyn (op : BitVec 4) (x y : Reg) (n : BitVec 4) :
    fieldN (packXyn op x y n) = n :=
  fieldN_xyn op x y n

/-! ## The word that its fields pack to, where a pattern fixes some of them -/

theorem packNnn_of_op {w : Word} {op : BitVec 4} (ho : (fieldOp w).toNat = op.toNat) :
    packNnn op (fieldNnn w) = w := by
  rw [← BitVec.eq_of_toNat_eq ho, packNnn_fields]

theorem packXkk_of_op_kk {w : Word} {op : BitVec 4} {kk : Byte}
    (ho : (fieldOp w).toNat = op.toNat) (hk : (fieldKk w).toNat = kk.toNat) :
    packXkk op (fieldX w) kk = w := by
  rw [← BitVec.eq_of_toNat_eq ho, ← BitVec.eq_of_toNat_eq hk, packXkk_fields]

theorem packXyn_of_op_n {w : Word} {op n : BitVec 4}
    (ho : (fieldOp w).toNat = op.toNat) (hn : (fieldN w).toNat = n.toNat) :
    packXyn op (fieldX w) (fieldY w) n = w := by
  rw [← BitVec.eq_of_toNat_eq ho, ← BitVec.eq_of_toNat_eq hn, packXyn_fields]

/-! ## The round trips -/

/-- The fields that select a pattern are those `encode` packed, and the others come back as the operands;
the sprite height does because it fits its four bits (30_encoding.md R63). -/
theorem decode_encode {i : Instr} (h : i.WellFormed) : decode (encode i) = .ok i := by
  cases i with
  | cls | ret => decide
  | drw x y n =>
    have hn : n < 16 := Nat.lt_succ_of_le (of_decide_eq_true h)
    simp [encode, decode, Nat.mod_eq_of_lt hn]
  | _ => simp [encode, decode]

/-- Along the branches of `decode`, one format after another: a branch fixes the fields that select its
pattern, and its operands are the other fields of the word. -/
theorem wellFormed_and_encode_of_decode {w : Word} {i : Instr} (h : decode w = .ok i) :
    i.WellFormed ∧ encode i = w := by
  unfold decode at h
  split at h
  case h_1 => -- CLS and RET
    split at h
    · cases h; exact ⟨rfl, Eq.symm ‹_›⟩
    · split at h <;> cases h
      exact ⟨rfl, Eq.symm ‹_›⟩
  case h_2 ho | h_3 ho | h_9 ho => -- NNN
    cases h; exact ⟨rfl, packNnn_of_op ho⟩
  case h_4 ho | h_5 ho | h_6 ho | h_7 ho | h_10 ho => -- XKK
    cases h; exact ⟨rfl, packXkk_of_op_kk ho rfl⟩
  case h_8 ho => -- XYF
    split at h <;> cases h <;> exact ⟨rfl, packXyn_of_op_n ho ‹_›⟩
  case h_11 ho => -- XYN
    cases h
    have hn : (fieldN w).toNat ≤ 15 := Nat.le_of_lt_succ (fieldN w).isLt
    exact ⟨decide_eq_true hn, packXyn_of_op_n ho (by simp)⟩
  case h_12 ho => -- XFF
    split at h <;> cases h <;> exact ⟨rfl, packXkk_of_op_kk ho ‹_›⟩
  case h_13 => cases h -- no pattern

/-! ## The rows of the opcode table -/

/-- Every instruction's word matches the instruction's row, which is in the table (30_encoding.md R66). -/
theorem encodesItsRow : ∀ i : Instr, EncodesItsRow.Statement i
  | .cls => EncodesItsRow.cls
  | .ret => EncodesItsRow.ret
  | .jp nnn => EncodesItsRow.jp nnn
  | .call nnn => EncodesItsRow.call nnn
  | .se x kk => EncodesItsRow.se x kk
  | .sne x kk => EncodesItsRow.sne x kk
  | .ldImm x kk => EncodesItsRow.ldImm x kk
  | .addImm x kk => EncodesItsRow.addImm x kk
  | .ldReg x y => EncodesItsRow.ldReg x y
  | .andReg x y => EncodesItsRow.andReg x y
  | .xorReg x y => EncodesItsRow.xorReg x y
  | .addReg x y => EncodesItsRow.addReg x y
  | .ldI nnn => EncodesItsRow.ldI nnn
  | .rnd x kk => EncodesItsRow.rnd x kk
  | .drw x y n => EncodesItsRow.drw x y n
  | .ldVxDt x => EncodesItsRow.ldVxDt x
  | .ldDtVx x => EncodesItsRow.ldDtVx x
  | .ldStVx x => EncodesItsRow.ldStVx x
  | .addI x => EncodesItsRow.addI x
  | .ldF x => EncodesItsRow.ldF x
  | .ldB x => EncodesItsRow.ldB x
  | .ldMemVx x => EncodesItsRow.ldMemVx x
  | .ldVxMem x => EncodesItsRow.ldVxMem x

/-- One instruction of each row, in the table's order. -/
def rowSamples : List Instr :=
  [.cls, .ret, .jp 0, .call 0, .se 0 0, .sne 0 0, .ldImm 0 0, .addImm 0 0, .ldReg 0 0, .andReg 0 0,
   .xorReg 0 0, .addReg 0 0, .ldI 0, .rnd 0 0, .drw 0 0 0, .ldVxDt 0, .ldDtVx 0, .ldStVx 0, .addI 0,
   .ldF 0, .ldB 0, .ldMemVx 0, .ldVxMem 0]

theorem opcodeTable_eq_map_row : opcodeTable = rowSamples.map Instr.row := rfl

/-- Every row of the table is the row of an instruction. -/
theorem exists_row_of_mem {r : OpcodeRow} (h : r ∈ opcodeTable) : ∃ i : Instr, i.row = r := by
  rw [opcodeTable_eq_map_row] at h
  obtain ⟨i, -, hi⟩ := List.mem_map.1 h
  exact ⟨i, hi⟩

/-! A word that matches a row has the pattern's field wherever the mask covers the field. -/

theorem fieldOp_of_matches {r : OpcodeRow} {w : Word} (h : r.matches w = true)
    (hm : fieldOp r.mask = BitVec.allOnes 4) : fieldOp w = fieldOp r.pattern := by
  have hand : fieldOp (w &&& r.mask) = fieldOp w &&& fieldOp r.mask := BitVec.extractLsb'_and
  rw [← eq_of_beq h, hand, hm, BitVec.and_allOnes]

theorem fieldN_of_matches {r : OpcodeRow} {w : Word} (h : r.matches w = true)
    (hm : fieldN r.mask = BitVec.allOnes 4) : fieldN w = fieldN r.pattern := by
  have hand : fieldN (w &&& r.mask) = fieldN w &&& fieldN r.mask := BitVec.extractLsb'_and
  rw [← eq_of_beq h, hand, hm, BitVec.and_allOnes]

theorem fieldKk_of_matches {r : OpcodeRow} {w : Word} (h : r.matches w = true)
    (hm : fieldKk r.mask = BitVec.allOnes 8) : fieldKk w = fieldKk r.pattern := by
  have hand : fieldKk (w &&& r.mask) = fieldKk w &&& fieldKk r.mask := BitVec.extractLsb'_and
  rw [← eq_of_beq h, hand, hm, BitVec.and_allOnes]

/-- A row that fixes the whole word matches its pattern alone. -/
theorem eq_pattern_of_matches {r : OpcodeRow} {w : Word} (h : r.matches w = true)
    (hm : r.mask = BitVec.allOnes 16) : w = r.pattern := by
  rw [← eq_of_beq h, hm, BitVec.and_allOnes]

/-- A word that matches an instruction's row decodes to an instruction of that row: the row fixes the
fields that `decode` branches on. -/
theorem decode_of_matches_row {w : Word} (i : Instr) (h : i.row.matches w = true) :
    ∃ j, decode w = .ok j ∧ j.row = i.row := by
  cases i with
  | cls | ret =>
    obtain rfl := eq_pattern_of_matches h rfl
    exact ⟨_, rfl, rfl⟩
  | ldReg | andReg | xorReg | addReg =>
    dsimp only [Instr.row] at h
    unfold decode
    rw [fieldOp_of_matches h rfl, fieldN_of_matches h rfl]
    exact ⟨_, rfl, rfl⟩
  | ldVxDt | ldDtVx | ldStVx | addI | ldF | ldB | ldMemVx | ldVxMem =>
    dsimp only [Instr.row] at h
    unfold decode
    rw [fieldOp_of_matches h rfl, fieldKk_of_matches h rfl]
    exact ⟨_, rfl, rfl⟩
  | _ =>
    dsimp only [Instr.row] at h
    unfold decode
    rw [fieldOp_of_matches h rfl]
    exact ⟨_, rfl, rfl⟩

/-- Hence a word that matches a row of the table decodes to an instruction of that row. -/
theorem decode_of_matches {w : Word} {r : OpcodeRow} (hr : r ∈ opcodeTable) (h : r.matches w = true) :
    ∃ i, decode w = .ok i ∧ i.row = r := by
  obtain ⟨i, rfl⟩ := exists_row_of_mem hr
  exact decode_of_matches_row i h

theorem row_of_decode {w : Word} {i : Instr} (h : decode w = .ok i) :
    i.row ∈ opcodeTable ∧ i.row.matches w = true := by
  obtain ⟨-, rfl⟩ := wellFormed_and_encode_of_decode h
  exact (encodesItsRow i).symm

/-! ## The illegal words

Family by family of the field `op` (30_encoding.md R68). -/

theorem decode_error_iff_of_op_0 {w : Word} (ho : w.toNat / 0x1000 = 0x0) :
    decode w = .error (.unknownInstruction w) ↔ w.toNat ≠ 0x00E0 ∧ w.toNat ≠ 0x00EE := by
  have hcls : w = 0x00E0#16 ↔ w.toNat = 0x00E0 := BitVec.toNat_inj.symm
  have hret : w = 0x00EE#16 ↔ w.toNat = 0x00EE := BitVec.toNat_inj.symm
  simp only [decode, fieldOp_toNat, ho, hcls, hret]
  split
  next h => simp [h]
  next hc => split <;> simp [*]

theorem decode_error_iff_of_op_8 {w : Word} (ho : w.toNat / 0x1000 = 0x8) :
    decode w = .error (.unknownInstruction w) ↔ w.toNat % 16 ∉ [0x0, 0x2, 0x3, 0x4] := by
  simp only [decode, fieldOp_toNat, fieldN_toNat, ho]
  split <;> simp_all

theorem decode_error_iff_of_op_F {w : Word} (ho : w.toNat / 0x1000 = 0xF) :
    decode w = .error (.unknownInstruction w) ↔
      w.toNat % 256 ∉ [0x07, 0x15, 0x18, 0x1E, 0x29, 0x33, 0x55, 0x65] := by
  simp only [decode, fieldOp_toNat, fieldKk_toNat, ho]
  split <;> simp_all

theorem decode_error_iff_of_op_ne {w : Word} (h0 : w.toNat / 0x1000 ≠ 0x0)
    (h8 : w.toNat / 0x1000 ≠ 0x8) (hF : w.toNat / 0x1000 ≠ 0xF) :
    decode w = .error (.unknownInstruction w) ↔ w.toNat / 0x1000 ∈ [0x5, 0x9, 0xB, 0xE] := by
  have hlt : w.toNat / 0x1000 < 16 := Nat.div_lt_of_lt_mul w.isLt
  simp only [decode, fieldOp_toNat, List.mem_cons, List.not_mem_nil, or_false]
  split
  case h_13 =>
    simp only [imp_false] at *
    simp only [true_iff]
    omega
  all_goals simp_all

/-- Settles O2: the fields of a packed word are what was packed. -/
theorem decodeOfEncodeIsTheInstruction : Obligations.DecodeOfEncodeIsTheInstruction :=
  fun _ h => decode_encode h

/-- Settles O3: each branch of `decode` fixes the bits that its operands do not hold. -/
theorem encodeOfDecodeIsTheWord : Obligations.EncodeOfDecodeIsTheWord :=
  fun _ _ h => wellFormed_and_encode_of_decode h

/-- Settles O4: a decoded word is the encoding of its instruction and so matches its row; a word that
matches two rows would decode to an instruction of each. -/
theorem rowsDecideWhatDecodes : Obligations.RowsDecideWhatDecodes := by
  refine ⟨fun w => ⟨?_, ?_⟩, fun _ _ h => row_of_decode h, fun w r r' hr hr' h h' => ?_⟩
  · rintro ⟨i, h⟩
    exact ⟨i.row, row_of_decode h⟩
  · rintro ⟨r, hr, h⟩
    obtain ⟨i, hi, -⟩ := decode_of_matches hr h
    exact ⟨i, hi⟩
  · obtain ⟨i, hi, rfl⟩ := decode_of_matches hr h
    obtain ⟨j, hj, rfl⟩ := decode_of_matches hr' h'
    obtain rfl : i = j := Except.ok.inj (hi.symm.trans hj)
    rfl

/-- Settles O5, by the families of the field `op`: three have listed words, and of the others all words or
none are illegal. -/
theorem illegalWordsAreExactlyTheListedOnes : Obligations.IllegalWordsAreExactlyTheListedOnes := by
  intro w
  by_cases h0 : w.toNat / 0x1000 = 0x0
  · rw [decode_error_iff_of_op_0 h0]
    omega
  have hhi : ¬ w.toNat ≤ 0x0FFF := by omega
  by_cases h8 : w.toNat / 0x1000 = 0x8
  · have hlow : ∀ n < 16, n ∉ [0x0, 0x2, 0x3, 0x4] ↔
        n ∈ [0x1, 0x5, 0x6, 0x7, 0x8, 0x9, 0xA, 0xB, 0xC, 0xD, 0xE, 0xF] := by decide
    rw [decode_error_iff_of_op_8 h8, hlow _ (Nat.mod_lt _ (by decide))]
    simp [h8, hhi]
  by_cases hF : w.toNat / 0x1000 = 0xF
  · rw [decode_error_iff_of_op_F hF]
    simp [hF, hhi]
  rw [decode_error_iff_of_op_ne h0 h8 hF]
  simp [h8, hF, hhi]

/-- Settles O1: the eight closed words, evaluated. -/
theorem sampleWordsDecodeAsTheirPatternsSay : Obligations.SampleWordsDecodeAsTheirPatternsSay := by
  unfold Obligations.SampleWordsDecodeAsTheirPatternsSay
  decide

end Sys2Proof

/-! # The cycle: which instruction a tick runs, that it answers, and what its trace shows -/

namespace Sys2Proof

namespace Machine

/-! ## Every tick answers -/

/-- An instruction never refuses: it completes or takes the one fault it raises (40_cycle.md R86). -/
theorem exec_answers (i : Instr) (s : State) : ∃ t, exec i s = .next t := by
  cases hr : i.raises s with
  | none => exact ⟨_, exec_of_completes hr⟩
  | some f => exact ⟨_, exec_of_raises hr⟩

/-! ## The instruction that the next tick executes -/

/-- `nextInstr` names an instruction exactly on a running machine whose two bytes at `PC` are in memory
and decode to it (40_cycle.md R80, 20_memory.md R46). -/
theorem nextInstr_eq_some_iff {s : State} {i : Instr} :
    s.nextInstr = some i ↔ s.running = true ∧ s.pc.toNat + 1 ≤ Config.maxAddr ∧
      decode (s.mem.read16 s.pc.toNat) = .ok i := by
  unfold State.nextInstr State.fetch
  cases hf : memRead16 s.mem s.pc.toNat with
  | error a =>
    have hpc : ¬ s.pc.toNat + 1 ≤ Config.maxAddr := Nat.not_le.2 (memRead16_error hf).1
    simp [hpc]
  | ok w =>
    obtain ⟨hpc, rfl⟩ := memRead16_ok hf
    cases hd : decode (s.mem.read16 s.pc.toNat) <;> simp [hpc, hd]

/-- The trace record of a cycle that executes an instruction (40_cycle.md R88): the word it holds is the
instruction's, since no bit of a decoded word is lost. -/
theorem traceOf_of_nextInstr {s : State} {i : Instr} (h : s.nextInstr = some i) :
    s.traceOf = some {
      cycle := s.cycle + 1, pc := s.pc, opcode := encode i, v := s.v, i := s.i
      dt := countdown s.dt, st := countdown s.st, sp := s.sp } := by
  obtain ⟨hr, hpc, hd⟩ := nextInstr_eq_some_iff.1 h
  have hf : s.beginCycle.fetch = .ok (s.mem.read16 s.pc.toNat) := memRead16_of_le hpc
  obtain ⟨-, hw⟩ := wellFormed_and_encode_of_decode hd
  simp only [State.traceOf, hr, if_true, hf, hd, hw]
  rfl

/-! ## Placing an instruction -/

/-- A word stored at an address is read back from it (20_memory.md R44, R45). -/
theorem Memory.read16_write16 {m : Memory} (h : m.wf) (a : Nat) (w : Word) :
    (m.write16 a w).read16 a = w := by
  rw [Memory.read16, Memory.read_write16 h, Memory.read_write16 h, if_neg (Nat.succ_ne_self a).symm,
    if_pos rfl, if_pos rfl, joinBytes_hi_lo]

theorem madeFetchable_pc (s : State) : s.madeFetchable.pc =
    if s.pc.toNat + 1 > Config.maxAddr then BitVec.ofNat 16 Config.progBase else s.pc := rfl

/-- The `PC` that `madeFetchable` leaves has two bytes in memory (20_memory.md R46). -/
theorem madeFetchable_pc_le (s : State) : s.madeFetchable.pc.toNat + 1 ≤ Config.maxAddr := by
  rw [madeFetchable_pc]
  split
  · decide
  · exact Nat.not_lt.1 ‹_›

/-- Placing a 16-bit word stores that word, in the state made fetchable, at its `PC`. -/
theorem withFetchWord_toNat (s : State) (w : Word) :
    s.withFetchWord 16 w.toNat =
      s.madeFetchable.setMem (s.mem.write16 s.madeFetchable.pc.toNat w) := by
  have hw : BitVec.ofNat 16 (w.toNat % 2 ^ 16) = w := by
    rw [Nat.mod_eq_of_lt w.isLt, BitVec.ofNat_toNat, BitVec.setWidth_eq]
  rw [State.withFetchWord, hw]
  rfl

/-- The next tick executes the instruction whose word was placed. -/
theorem nextInstr_withFetchWord {s : State} {i : Instr} (hm : s.mem.wf) (hi : i.WellFormed) :
    (s.withFetchWord 16 (encode i).toNat).nextInstr = some i := by
  rw [withFetchWord_toNat, nextInstr_eq_some_iff]
  refine ⟨rfl, madeFetchable_pc_le s, ?_⟩
  rw [State.setMem_mem, State.setMem_pc, Memory.read16_write16 hm, decode_encode hi]

end Machine

open Machine

/-- Settles O11: a tick does nothing, takes a fault or executes an instruction, and each answers. -/
theorem everyStateHasANextState : Obligations.EveryStateHasANextState := by
  intro s
  rcases step_cases s with ⟨-, hs⟩ | ⟨-, -, hs⟩ | ⟨-, -, -, hs⟩ | ⟨-, -, i, -, hs⟩
  · exact ⟨_, hs⟩
  · exact ⟨_, hs⟩
  · exact ⟨_, hs⟩
  · rw [hs]; exact exec_answers i s.beginCycle

/-- Settles O58: the word is stored inside memory at the `PC` that the fetch then uses, and decodes to
the instruction it encodes. -/
theorem placedInstructionRunsNext : Obligations.PlacedInstructionRunsNext := by
  intro s i hm hi
  refine ⟨?_, step_of_nextInstr (nextInstr_withFetchWord hm hi)⟩
  rw [withFetchWord_toNat]
  exact Memory.write16_wf hm (Nat.lt_succ_of_le (madeFetchable_pc_le s)) _

/-- Settles O59: the record's timers are those after the countdown, written as a subtraction. -/
theorem traceShowsTheStateBeforeExecution : Obligations.TraceShowsTheStateBeforeExecution := by
  intro s i h
  rw [traceOf_of_nextInstr h, countdown_eq, countdown_eq]

/-- Settles O6: the hypotheses name the instruction that the tick executes, on the state after the
count and the countdown. -/
theorem tickRunsTheDecodedInstruction : Obligations.TickRunsTheDecodedInstruction := by
  intro s i hh hl hpc hd
  have hn : s.nextInstr = some i :=
    nextInstr_eq_some_iff.2 ⟨(running_iff s).2 ⟨hh, hl⟩, Nat.succ_le_succ hpc, hd⟩
  rw [step_of_nextInstr hn, State.beginCycle, countdown_eq, countdown_eq]

/-- Settles O10: a Halted machine does not run, nor does one whose load failed. -/
theorem stoppedMachineIgnoresTicks : Obligations.StoppedMachineIgnoresTicks := by
  rintro s (hh | hl)
  · exact step_of_not_running (by simp [State.running, hh])
  · exact step_of_not_running (by simp [State.running, hl])

end Sys2Proof

/-! # Control transfer: RET, JP, CALL, SE and SNE -/

namespace Sys2Proof

namespace Machine

/-! ## The entries of a stack with one value more -/

section StackEntry

variable {s t : State} {w : Word}

theorem sp_of_stack_cons (h : t.stack = w :: s.stack) : t.sp = s.sp + 1 := by
  rw [State.sp, h, List.length_cons, State.sp]

/-- The added value is the newest entry (10_state.md R23). -/
theorem stackEntry_sp_of_stack_cons (h : t.stack = w :: s.stack) : t.stackEntry s.sp = some w := by
  rw [State.stackEntry, h, List.reverse_cons, State.sp, ← List.length_reverse,
    List.getElem?_concat_length]

/-- The older entries stay where they were: entries are counted from the oldest (10_state.md R23). -/
theorem stackEntry_of_lt_of_stack_cons (h : t.stack = w :: s.stack) {j : Nat} (hj : j < s.sp) :
    t.stackEntry j = s.stackEntry j := by
  rw [State.stackEntry, h, List.reverse_cons, State.stackEntry,
    List.getElem?_append_left (by rwa [List.length_reverse])]

end StackEntry

/-! ## RET and CALL in their two cases -/

section RetCall

variable {s : State}

theorem exec_ret_of_stack_nil (h : s.stack = []) :
    exec .ret s = .next (s.raise .stackUnderflow 0x00EE) :=
  exec_of_raises (if_pos (List.length_eq_zero_iff.2 h))

theorem exec_ret_of_stack_cons {w : Word} {rest : List Word} (h : s.stack = w :: rest) :
    exec .ret s = .next { s with pc := w, stack := rest } := by
  have hsp : s.sp ≠ 0 := by simp [State.sp, h]
  have hdone : exec .ret s = .next { s with pc := s.stack.headD 0, stack := s.stack.tail } :=
    exec_of_completes (if_neg hsp)
  rw [hdone, h, List.headD_cons, List.tail_cons]

theorem exec_call_of_full (nnn : BitVec 12) (h : 15 ≤ s.sp) :
    exec (.call nnn) s = .next (s.raise .stackOverflow (0x2#4 ++ nnn)) :=
  exec_of_raises (if_pos h)

theorem exec_call_of_room (nnn : BitVec 12) (h : s.sp < 15) :
    exec (.call nnn) s =
      .next { s with stack := (s.pc + 2) :: s.stack, pc := BitVec.ofNat 16 nnn.toNat } :=
  exec_of_completes (if_neg (Nat.not_le.2 h))

end RetCall

end Machine

open Machine

/-- Settles O18: the empty stack raises the underflow, and any other is popped into `PC`. -/
theorem retPopsThePc : Obligations.RetPopsThePc :=
  ⟨decode_encode (i := .ret) rfl, fun _ => ⟨exec_ret_of_stack_nil, fun _ _ => exec_ret_of_stack_cons⟩⟩

/-- Settles O19: JP raises nothing and changes nothing but `PC`. -/
theorem jpSetsThePc : Obligations.JpSetsThePc :=
  fun nnn _ => ⟨decode_encode (i := .jp nnn) rfl, exec_of_completes rfl⟩

/-- Settles O20: a CALL with room adds `PC + 2` to the stack, whose older entries keep their places. -/
theorem callPushesTheReturnAddress : Obligations.CallPushesTheReturnAddress := by
  intro nnn s
  refine ⟨decode_encode (i := .call nnn) rfl, exec_call_of_full nnn, fun hsp => ?_⟩
  exact ⟨_, exec_call_of_room nnn hsp, rfl, sp_of_stack_cons rfl, stackEntry_sp_of_stack_cons rfl,
    fun _ => stackEntry_of_lt_of_stack_cons rfl⟩

/-- Settles O21: the CALL had room, so the stack that `t` holds is the one before it with `PC + 2`
pushed, and RET pops just that. -/
theorem retUndoesCall : Obligations.RetUndoesCall := by
  intro nnn s s' t hsp hcall ht
  rw [exec_call_of_room nnn hsp] at hcall
  cases hcall
  exact exec_ret_of_stack_cons ht

/-- Settles O22: SE raises nothing and changes nothing but `PC`. -/
theorem seSkipsWhenEqual : Obligations.SeSkipsWhenEqual :=
  fun x kk _ => ⟨decode_encode (i := .se x kk) rfl, exec_of_completes rfl⟩

/-- Settles O23: SNE raises nothing and changes nothing but `PC`; its test is negated, so its two targets
are exchanged. -/
theorem sneSkipsWhenNotEqual : Obligations.SneSkipsWhenNotEqual := by
  intro x kk s
  have hdone : exec (.sne x kk) s =
      .next { s with pc := if s.v[x.val] ≠ kk then s.pc + 4 else s.pc + 2 } := exec_of_completes rfl
  exact ⟨decode_encode (i := .sne x kk) rfl, by rw [hdone, ite_not]⟩

end Sys2Proof

/-! # Registers: 6xkk, 7xkk, 8xy0, 8xy2, 8xy3, 8xy4 and Cxkk -/

namespace Sys2Proof

open Machine

/-! ## A masked byte -/

/-- A byte masked by `m` has no bit outside `m`. -/
theorem and_and_not_eq_zero (b m : Byte) : (b &&& m) &&& ~~~m = 0 := by
  rw [BitVec.and_assoc, BitVec.and_not_self]
  exact BitVec.and_zero

/-- A byte masked by `m` does not exceed `m`. -/
theorem toNat_and_le_right (b m : Byte) : (b &&& m).toNat ≤ m.toNat := by
  rw [BitVec.toNat_and]
  exact Nat.and_le_right

/-! ## The seven instructions

None of them raises anything, so each completes as `Instr.dataAfter` says, with `PC + 2`. -/

/-- Settles O24: LD writes its constant to the destination and nothing else. -/
theorem ldLoadsTheConstant : Obligations.LdLoadsTheConstant :=
  fun x kk _ => ⟨decode_encode (i := .ldImm x kk) rfl, exec_of_completes rfl⟩

/-- Settles O25: the sum is `sumMod256`, and the destination is the only register written. -/
theorem addConstantWrapsWithoutFlag : Obligations.AddConstantWrapsWithoutFlag :=
  fun x kk _ => ⟨decode_encode (i := .addImm x kk) rfl, exec_of_completes rfl⟩

/-- Settles O26: LD writes the source's value to the destination and nothing else. -/
theorem ldCopiesTheRegister : Obligations.LdCopiesTheRegister :=
  fun x y _ => ⟨decode_encode (i := .ldReg x y) rfl, exec_of_completes rfl⟩

/-- Settles O27: the byte written is the conjunction of the two operand bytes, which is so bit by
bit. -/
theorem andIsBitwiseAndLeavesVf : Obligations.AndIsBitwiseAndLeavesVf :=
  fun x y s => ⟨decode_encode (i := .andReg x y) rfl, s.getV x &&& s.getV y, exec_of_completes rfl,
    fun _ _ => BitVec.getLsbD_and⟩

/-- Settles O28: the byte written is the exclusive or of the two operand bytes, which is so bit by
bit. -/
theorem xorIsBitwiseXorLeavesVf : Obligations.XorIsBitwiseXorLeavesVf :=
  fun x y s => ⟨decode_encode (i := .xorReg x y) rfl, s.getV x ^^^ s.getV y, exec_of_completes rfl,
    fun _ _ => BitVec.getLsbD_xor⟩

/-- Settles O29: `sumMod256` and `carryFlag` are both of the operands as they were, and the write of VF
comes after that of the destination, so that it stands where `x = F`. -/
theorem addRegistersWritesTheCarryLast : Obligations.AddRegistersWritesTheCarryLast :=
  fun x y _ => ⟨decode_encode (i := .addReg x y) rfl, exec_of_completes rfl⟩

/-- Settles O30: the byte written is a masked draw, whatever `Config.draw8` gives. -/
theorem rndMasksAFreshDraw : Obligations.RndMasksAFreshDraw :=
  fun x kk s => ⟨decode_encode (i := .rnd x kk) rfl, s.drawn &&& kk, exec_of_completes rfl, rfl,
    and_and_not_eq_zero _ kk, toNat_and_le_right _ kk⟩

end Sys2Proof

/-! # The index register and memory: Annn, Fx1E, Fx29, Fx33, Fx55 and Fx65 -/

namespace Sys2Proof

namespace Machine

/-- `zext_16(nnn)` is the same number (30_encoding.md R63). -/
theorem absAddr_eq_ofNat (nnn : BitVec 12) : absAddr nnn = BitVec.ofNat 16 nnn.toNat :=
  (BitVec.ofNat_toNat 16 nnn).symm

/-- Five times a byte fits in 16 bits, so a glyph's address is not reduced (43_index_and_memory.md R142). -/
theorem glyphAddr_toNat (b : Byte) : (glyphAddr b).toNat = b.toNat * 5 := by
  have hfits : b.toNat * 5 < 2 ^ 16 := by have := b.isLt; omega
  rw [glyphAddr, Nat.zero_add, BitVec.toNat_ofNat, Nat.mod_eq_of_lt hfits]

/-! ## The three digits of LD B, Vx -/

/-- A byte has at most three decimal digits, each of which fits in a byte (43_index_and_memory.md R143). -/
theorem map_toNat_decimalDigits (b : Byte) :
    (decimalDigits b).map BitVec.toNat = [b.toNat / 100, b.toNat / 10 % 10, b.toNat % 10] := by
  have hb := b.isLt
  have hundreds : b.toNat / 100 < 2 ^ 8 := by omega
  have tens : b.toNat / 10 % 10 < 2 ^ 8 := by omega
  have ones : b.toNat % 10 < 2 ^ 8 := by omega
  simp only [decimalDigits, List.map_cons, List.map_nil, BitVec.toNat_ofNat,
    Nat.mod_eq_of_lt hundreds, Nat.mod_eq_of_lt tens, Nat.mod_eq_of_lt ones]

/-- Byte `k` of the bytes stored from `a` up stands at `a + k`. -/
theorem Memory.read_writeList_add {m : Memory} (h : m.wf) (a : Nat) {bs : List Byte} {k : Nat}
    (hk : k < bs.length) : (m.writeList a bs).read (a + k) = bs[k] := by
  rw [Memory.read_writeList h.1, if_pos ⟨Nat.le_add_right a k, Nat.add_lt_add_left hk a⟩,
    Nat.add_sub_cancel_left, List.getD_eq_getElem _ _ hk]

/-- Each stored digit reads back as its number. -/
theorem Memory.toNat_read_writeList_decimalDigits {m : Memory} (h : m.wf) (a : Nat) (b : Byte) {k : Nat}
    (hk : k < 3) : ((m.writeList a (decimalDigits b)).read (a + k)).toNat =
      [b.toNat / 100, b.toNat / 10 % 10, b.toNat % 10][k] :=
  calc
    _ = (decimalDigits b)[k].toNat := by rw [Memory.read_writeList_add h a hk]
    _ = ((decimalDigits b).map BitVec.toNat)[k] := (List.getElem_map BitVec.toNat).symm
    _ = _ := List.getElem_of_eq (map_toNat_decimalDigits b) hk

end Machine

open Machine

/-- Settles O34: the store makes the one range check for its three bytes, and the bytes are read back by
the rule of a store of several. -/
theorem bcdStoresThreeDigitsOrFaults : Obligations.BcdStoresThreeDigitsOrFaults := by
  intro x s
  refine ⟨decode_encode (i := .ldB x) rfl, fun hi => ?_, fun hi => ?_⟩
  · exact exec_of_raises (if_pos (Nat.add_lt_add_right hi 2))
  · have hdone : (Instr.ldB x).raises s = none := if_neg (Nat.not_lt.2 (Nat.add_le_add_right hi 2))
    refine ⟨_, exec_of_completes hdone, fun hm => ?_⟩
    have digit {k : Nat} (hk : k < 3) :=
      Memory.toNat_read_writeList_decimalDigits hm s.indexAddr (s.getV x) hk
    exact ⟨completed_mem_wf hm hdone, digit (k := 0) (by decide), digit (k := 1) (by decide),
      digit (k := 2) (by decide), fun _ => completed_read_of_outside (i := .ldB x) hm⟩

/-- Settles O35: the store raises its address or writes the one byte there. -/
theorem storeWritesOneByteOrFaults : Obligations.StoreWritesOneByteOrFaults := by
  intro x s
  refine ⟨decode_encode (i := .ldMemVx x) rfl, fun hi => exec_of_raises (if_pos hi), fun hi => ?_⟩
  refine ⟨_, exec_ldMemVx_of_le x hi, fun hm => ⟨?_, ?_, fun a ha => ?_⟩⟩
  · exact Memory.write_wf hm (Nat.lt_succ_of_le hi) _
  · exact (Memory.read_write hm.1 ..).trans (if_pos rfl)
  · exact (Memory.read_write hm.1 ..).trans (if_neg ha)

/-- Settles O31: LD I raises nothing and writes the address to `I`. -/
theorem ldSetsTheIndex : Obligations.LdSetsTheIndex := by
  intro nnn s
  have hdone : exec (.ldI nnn) s = .next { s with i := absAddr nnn, pc := s.pc + 2 } :=
    exec_of_completes rfl
  exact ⟨decode_encode (i := .ldI nnn) rfl, by rw [hdone, absAddr_eq_ofNat]⟩

/-- Settles O32: ADD I raises nothing, whatever the sum, and writes no register. -/
theorem addIndexWrapsAt16Bits : Obligations.AddIndexWrapsAt16Bits :=
  fun x _ => ⟨decode_encode (i := .addI x) rfl, exec_of_completes rfl⟩

/-- Settles O33: the word written is the glyph's address, which never wraps. -/
theorem ldPointsAtTheGlyph : Obligations.LdPointsAtTheGlyph :=
  fun x s => ⟨decode_encode (i := .ldF x) rfl, glyphAddr (s.getV x), exec_of_completes rfl,
    glyphAddr_toNat _⟩

/-- Settles O36: the read raises its address or writes the byte there to the destination. -/
theorem loadReadsOneByteOrFaults : Obligations.LoadReadsOneByteOrFaults :=
  fun x _ => ⟨decode_encode (i := .ldVxMem x) rfl, fun hi => exec_of_raises (if_pos hi),
    fun hi => exec_of_completes (if_neg (Nat.not_lt.2 hi))⟩

end Sys2Proof

/-! # The display: 00E0 and Dxyn, and the packed form of the blit -/

namespace Sys2Proof

namespace Machine

/-! ## CLS -/

@[simp] theorem Framebuffer.packedByte_clear (k : Fin 256) : Framebuffer.clear.packedByte k = 0 := by
  rw [Framebuffer.packedByte, Framebuffer.clear, Vector.getElem_replicate]
  exact BitVec.extractLsb'_zero

/-! ## The sprite that DRW draws -/

theorem collisionFlag_eq_one_iff (collided : Bool) : collisionFlag collided = 1 ↔ collided = true := by
  cases collided <;> decide

theorem collisionFlag_eq_zero_iff (collided : Bool) : collisionFlag collided = 0 ↔ collided = false := by
  cases collided <;> decide

section Blit

variable (d : Framebuffer) (vx vy : Byte) {bs : List Byte}

theorem pixel_blit (hl : bs.length ≤ 32) (row : Fin 32) (col : Fin 64) :
    (blit d vx vy bs).fb.pixel row col = true ↔
      ¬ (d.pixel row col = true ↔ RowsLight vx vy 0 bs row col) :=
  (blitRows_spec vx vy 0 bs ⟨d, false⟩ hl).1 row col

theorem collided_blit (hl : bs.length ≤ 32) :
    (blit d vx vy bs).collided = true ↔
      ∃ row col, d.pixel row col = true ∧ RowsLight vx vy 0 bs row col := by
  rw [blit, (blitRows_spec vx vy 0 bs ⟨d, false⟩ hl).2]
  simp only [Bool.false_eq_true, false_or]

end Blit

/-- The rows of a sprite are the bytes read from `base` up (44_display.md R163). -/
theorem rowsLight_map_read (m : Memory) (base : Nat) (vx vy : Byte) (n : Nat) (row : Fin 32) (col : Fin 64) :
    RowsLight vx vy 0 ((List.range n).map fun k => m.read (base + k)) row col ↔
      SpriteLights m base vx vy n row col := by
  simp only [RowsLight, RowLights, SpriteLights, spriteRow, spriteCol, spritePixel, Fin.ext_iff,
    List.length_map, List.length_range, List.getElem_map, List.getElem_range, Nat.zero_add]
  constructor
  · rintro ⟨r, hr, c, hc, hrow, hcol, hlit⟩
    exact ⟨r, c, hr, hc, hrow.symm, hcol.symm, hlit⟩
  · rintro ⟨r, c, hr, hc, hrow, hcol, hlit⟩
    exact ⟨r, hr, c, hc, hrow.symm, hcol.symm, hlit⟩

/-- The blit of DRW Vx, Vy, n in the state `s`, every source byte being in memory; `exec_drw_of_fits` ties
it to `exec`. -/
def State.drawSprite (s : State) (x y : Reg) (n : Nat) : BlitResult :=
  blit s.fb (s.getV x) (s.getV y) ((List.range n).map fun k => s.mem.read (s.indexAddr + k))

section Drw

variable {s : State} (x y : Reg) {n : Nat}

/-- A sprite that fits in memory is drawn, and its collision goes to VF (44_display.md R163). -/
theorem exec_drw_of_fits (h : n = 0 ∨ s.i.toNat + n - 1 ≤ 0x0FFF) :
    exec (.drw x y n) s = .next { s with
      fb := (s.drawSprite x y n).fb
      v := s.v.set 15 (collisionFlag (s.drawSprite x y n).collided)
      pc := s.pc + 2 } :=
  exec_of_completes (if_neg (by omega))

/-- The pixels under a lit sprite pixel are inverted and no others. -/
theorem pixel_drawSprite (hn : n ≤ 15) (row : Fin 32) (col : Fin 64) :
    (s.drawSprite x y n).fb.pixel row col = true ↔
      ¬ (s.fb.pixel row col = true ↔
        SpriteLights s.mem s.indexAddr s.v[x.val] s.v[y.val] n row col) := by
  rw [← rowsLight_map_read]
  exact pixel_blit _ _ _ (by rw [List.length_map, List.length_range]; omega) row col

/-- The draw has collided exactly when a pixel under a lit sprite pixel was lit (44_display.md R164). -/
theorem collided_drawSprite (hn : n ≤ 15) :
    (s.drawSprite x y n).collided = true ↔ ∃ row col, s.fb.pixel row col = true ∧
      SpriteLights s.mem s.indexAddr s.v[x.val] s.v[y.val] n row col := by
  simp only [← rowsLight_map_read]
  exact collided_blit _ _ _ (by rw [List.length_map, List.length_range]; omega)

end Drw

/-! ## The packed form of one sprite row -/

/-- Every bit of the packed view is the bit of a pixel (10_state.md R27). -/
theorem exists_pixel_of_packed_bit (k : Fin 256) {j : Nat} (hj : j < 8) :
    ∃ (row : Fin 32) (col : Fin 64), k.val = row.val * 8 + col.val / 8 ∧ j = 7 - col.val % 8 :=
  ⟨⟨k.val / 8, by omega⟩, ⟨k.val % 8 * 8 + (7 - j), by omega⟩, by dsimp only; omega, by dsimp only; omega⟩

/-- Byte `k` of the packed view of a display that shows only row byte `b`, drawn as row `r` at
(`vx`, `vy`): the two shifted bytes of 44_display.md R166 in their places, the second of which wraps in
its row, and 0 elsewhere. -/
def packedRow (vx vy : Byte) (r : Nat) (b : Byte) (k : Fin 256) : Byte :=
  if k.val = (vy.toNat + r) % 32 * 8 + vx.toNat % 64 / 8 then b >>> (vx.toNat % 8)
  else if k.val = (vy.toNat + r) % 32 * 8 + (vx.toNat % 64 / 8 + 1) % 8 then b <<< (8 - vx.toNat % 8)
  else 0#8

section PackedRow

variable (vx vy : Byte) (r : Nat) (b : Byte)

/-- A bit of `packedRow` is the lit sprite pixel that falls on its pixel. -/
theorem packedRow_getLsbD {k : Fin 256} {row : Fin 32} {col : Fin 64}
    (hk : k.val = row.val * 8 + col.val / 8) :
    (packedRow vx vy r b k).getLsbD (7 - col.val % 8) = true ↔ RowLights vx vy r b row col := by
  simp only [RowLights, spriteRow, spriteCol, spritePixel, Fin.ext_iff]
  unfold packedRow
  split
  case isTrue hleft =>
    rw [BitVec.getLsbD_ushiftRight]
    constructor
    · intro hlit
      have hbit := BitVec.lt_of_getLsbD hlit
      refine ⟨col.val % 8 - vx.toNat % 8, by omega, by omega, by omega, ?_⟩
      rwa [show 7 - (col.val % 8 - vx.toNat % 8) = vx.toNat % 8 + (7 - col.val % 8) by omega]
    · rintro ⟨c, hc, hrow, hcol, hlit⟩
      rwa [show vx.toNat % 8 + (7 - col.val % 8) = 7 - c by omega]
  case isFalse hleft =>
    split
    case isTrue hright =>
      rw [BitVec.getLsbD_shiftLeft]
      simp only [Bool.and_eq_true, decide_eq_true_eq, Bool.not_eq_true', decide_eq_false_iff_not]
      constructor
      · rintro ⟨⟨hj, hshift⟩, hlit⟩
        refine ⟨8 - vx.toNat % 8 + col.val % 8, by omega, by omega, by omega, ?_⟩
        rwa [show 7 - (8 - vx.toNat % 8 + col.val % 8) = 7 - col.val % 8 - (8 - vx.toNat % 8) by omega]
      · rintro ⟨c, hc, hrow, hcol, hlit⟩
        refine ⟨⟨by omega, by omega⟩, ?_⟩
        rwa [show 7 - col.val % 8 - (8 - vx.toNat % 8) = 7 - c by omega]
    case isFalse hright =>
      rw [BitVec.getLsbD_zero]
      constructor
      · intro h; cases h
      · rintro ⟨c, hc, hrow, hcol, -⟩
        omega

/-- Blitting a row pixel by pixel xors its packed form into the packed view (44_display.md R166). -/
theorem packedByte_blitRow (acc : BlitResult) (k : Fin 256) :
    (blitRow vx vy r b acc).fb.packedByte k = acc.fb.packedByte k ^^^ packedRow vx vy r b k := by
  refine BitVec.eq_of_getLsbD_eq fun j hj => ?_
  obtain ⟨row, col, hk, rfl⟩ := exists_pixel_of_packed_bit k hj
  rw [BitVec.getLsbD_xor, packedByte_getLsbD _ row col k hk, packedByte_getLsbD _ row col k hk,
    Bool.eq_iff_iff, pixel_blitRow, ← packedRow_getLsbD vx vy r b hk, ← Bool.eq_iff_iff, bne_iff_ne]

/-- The packed form of a row and the packed view meet in a byte exactly when a lit sprite pixel meets a
lit pixel. -/
theorem exists_packedByte_and_packedRow_ne_zero (d : Framebuffer) :
    (∃ k, d.packedByte k &&& packedRow vx vy r b k ≠ 0#8) ↔
      ∃ row col, d.pixel row col = true ∧ RowLights vx vy r b row col := by
  constructor
  · rintro ⟨k, hne⟩
    by_contra hnone
    refine hne (BitVec.eq_of_getLsbD_eq fun j hj => ?_)
    obtain ⟨row, col, hk, rfl⟩ := exists_pixel_of_packed_bit k hj
    rw [BitVec.getLsbD_and, packedByte_getLsbD d row col k hk, BitVec.getLsbD_zero]
    refine Bool.eq_false_iff.2 fun h => hnone ⟨row, col, ?_⟩
    rwa [Bool.and_eq_true, packedRow_getLsbD vx vy r b hk] at h
  · rintro ⟨row, col, hlit, hlights⟩
    obtain ⟨k, hk⟩ : ∃ k : Fin 256, k.val = row.val * 8 + col.val / 8 := ⟨⟨_, by omega⟩, rfl⟩
    refine ⟨k, fun hzero => ?_⟩
    have hbit := congrArg (fun w => w.getLsbD (7 - col.val % 8)) hzero
    simp [packedByte_getLsbD d row col k hk, hlit, (packedRow_getLsbD vx vy r b hk).2 hlights] at hbit

end PackedRow

end Machine

open Machine

/-- Settles O41: DRW raises its fault or completes, and the blit it completes with is that of the bytes it
read. -/
theorem drwXorsTheSpriteOrFaults : Obligations.DrwXorsTheSpriteOrFaults := by
  intro x y n s hn
  refine ⟨decode_encode (i := .drw x y n) (decide_eq_true hn),
    fun h0 hi => exec_of_raises (if_pos ⟨h0, hi⟩), fun hfits => ?_⟩
  refine ⟨_, _, exec_drw_of_fits x y hfits, pixel_drawSprite x y hn, ?_, ?_⟩
  · exact (Bool.eq_false_or_eq_true _).symm.imp (collisionFlag_eq_zero_iff _).2 (collisionFlag_eq_one_iff _).2
  · rw [collisionFlag_eq_one_iff, collided_drawSprite x y hn]

/-- Settles O42: both draws invert the same pixels, and the second collides at a pixel that the first has
lit. -/
theorem sameSpriteTwiceRestoresTheDisplay : Obligations.SameSpriteTwiceRestoresTheDisplay := by
  intro x y n s s' t t' hn hfits hs hfb hi hm hx hy ht
  rw [exec_drw_of_fits x y hfits] at hs
  rw [exec_drw_of_fits x y (hi ▸ hfits)] at ht
  cases hs
  cases ht
  have hindex : t.indexAddr = s.indexAddr := congrArg BitVec.toNat hi
  constructor
  · refine Framebuffer.ext_pixel fun row col => ?_
    rw [Bool.eq_iff_iff, pixel_drawSprite x y hn, hfb, hindex, hm, hx, hy, pixel_drawSprite x y hn]
    tauto
  · rw [Vector.getElem_set_self, collisionFlag_eq_zero_iff, Bool.eq_false_iff, ne_eq,
      collided_drawSprite x y hn, hfb, hindex, hm, hx, hy]
    simp only [pixel_drawSprite x y hn]
    constructor
    · intro hnone row col hlights
      by_contra hdark
      exact hnone ⟨row, col, by tauto, hlights⟩
    · rintro hlit ⟨row, col, hlit', hlights⟩
      have := hlit row col hlights
      tauto

/-- Settles O44: the two bytes are the only ones of the row's packed form that can differ from 0. -/
theorem packedBlitGivesTheSameRow : Obligations.PackedBlitGivesTheSameRow := by
  rintro d coll vx vy b r i0 i1 left right rfl rfl h0 h1
  have hne : i1.val ≠ (vy.toNat + r) % 32 * 8 + vx.toNat % 64 / 8 := by omega
  have hleft : packedRow vx vy r b i0 = b >>> (vx.toNat % 8) := if_pos h0
  have hright : packedRow vx vy r b i1 = b <<< (8 - vx.toNat % 8) := (if_neg hne).trans (if_pos h1)
  have hrest : ∀ k, k ≠ i0 → k ≠ i1 → packedRow vx vy r b k = 0#8 := fun k hk0 hk1 =>
    (if_neg fun h => hk0 (Fin.ext (h.trans h0.symm))).trans
      (if_neg fun h => hk1 (Fin.ext (h.trans h1.symm)))
  refine ⟨by rw [packedByte_blitRow, hleft], by rw [packedByte_blitRow, hright], fun k hk0 hk1 => ?_, ?_⟩
  · rw [packedByte_blitRow, hrest k hk0 hk1, BitVec.xor_zero]
  · rw [collided_blitRow, ← exists_packedByte_and_packedRow_ne_zero, ← hleft, ← hright]
    refine or_congr_right ⟨?_, ?_⟩
    · rintro ⟨k, hk⟩
      by_cases hk0 : k = i0
      · exact .inl (hk0 ▸ hk)
      by_cases hk1 : k = i1
      · exact .inr (hk1 ▸ hk)
      exact absurd (by rw [hrest k hk0 hk1, BitVec.and_zero]) hk
    · rintro (h | h)
      · exact ⟨i0, h⟩
      · exact ⟨i1, h⟩

/-- Settles O40: CLS raises nothing and stores the cleared framebuffer. -/
theorem clsClearsEveryPixel : Obligations.ClsClearsEveryPixel :=
  ⟨decode_encode (i := .cls) rfl, fun _ => ⟨_, exec_of_completes rfl, Framebuffer.pixel_clear,
    Framebuffer.packedByte_clear⟩⟩

end Sys2Proof

/-! # Timers: Fx07, Fx15 and Fx18, the countdown of a tick and of a run -/

namespace Sys2Proof

open Machine

/-! ## The three instructions

None of them raises anything, so each completes as `Instr.dataAfter` says, with `PC + 2`. -/

/-- Settles O45: LD Vx, DT writes the delay timer to its destination and nothing else. -/
theorem ldReadsTheDelayTimer : Obligations.LdReadsTheDelayTimer :=
  fun x _ => ⟨decode_encode (i := .ldVxDt x) rfl, exec_of_completes rfl⟩

/-- Settles O46: LD DT, Vx writes its source to the delay timer and nothing else. -/
theorem ldSetsTheDelayTimer : Obligations.LdSetsTheDelayTimer :=
  fun x _ => ⟨decode_encode (i := .ldDtVx x) rfl, exec_of_completes rfl⟩

/-- Settles O47: LD ST, Vx writes its source to the sound timer and nothing else. -/
theorem ldSetsTheSoundTimer : Obligations.LdSetsTheSoundTimer :=
  fun x _ => ⟨decode_encode (i := .ldStVx x) rfl, exec_of_completes rfl⟩

namespace Machine

/-! ## A timer over one tick, and the delay timer over a run -/

section Timers

variable {s t : State}

/-- A tick of a running machine takes a fault, or completes the instruction that `nextInstr` names, on
the state after the count and the countdown (40_cycle.md R80, R81). -/
theorem step_cases_of_running (hr : s.running = true) (h : step s = .next t) :
    (∃ f w, t = s.beginCycle.raise f w) ∨
    ∃ i : Instr, s.nextInstr = some i ∧ t = i.completed s.beginCycle := by
  rcases step_next_cases h with ⟨hn, -⟩ | ⟨-, f, w, -, ht⟩ | ⟨-, hpc, i, hd, -, ht⟩
  · rw [hr] at hn; cases hn
  · exact .inl ⟨f, w, ht⟩
  · exact .inr ⟨i, nextInstr_eq_some_iff.2 ⟨hr, hpc, hd⟩, ht⟩

/-- Only LD DT, Vx changes `DT` beyond its countdown (45_timers.md R180). -/
theorem step_dt_of_not_ldDtVx (hr : s.running = true) (h : step s = .next t)
    (hn : ∀ x, s.nextInstr ≠ some (.ldDtVx x)) : t.dt = countdown s.dt := by
  rcases step_cases_of_running hr h with ⟨f, w, rfl⟩ | ⟨i, hi, rfl⟩
  · rfl
  · by_contra hne
    obtain ⟨x, rfl⟩ := completed_dt_ne (s := s.beginCycle) hne
    exact hn x hi

/-- Only LD ST, Vx changes `ST` beyond its countdown (45_timers.md R180). -/
theorem step_st_of_not_ldStVx (hr : s.running = true) (h : step s = .next t)
    (hn : ∀ x, s.nextInstr ≠ some (.ldStVx x)) : t.st = countdown s.st := by
  rcases step_cases_of_running hr h with ⟨f, w, rfl⟩ | ⟨i, hi, rfl⟩
  · rfl
  · by_contra hne
    obtain ⟨x, rfl⟩ := completed_st_ne (s := s.beginCycle) hne
    exact hn x hi

/-- `k` ticks with no write to `DT` take `k` from it, and stop at 0 (45_timers.md R184). -/
theorem dt_toNat_of_delayRun {k : Nat} (h : DelayRun k s t) : t.dt.toNat = s.dt.toNat - k := by
  induction h with
  | none s => rfl
  | tick k s t u _ hr hn hstep ih =>
    rw [step_dt_of_not_ldDtVx hr hstep hn, countdown_toNat, ih, Nat.sub_sub]

/-- A tick that executes LD DT, Vx leaves `Vx` in `DT`: the write comes after the countdown
(40_cycle.md R81, 45_timers.md R182). -/
theorem step_dt_of_ldDtVx {x : Reg} (hi : s.nextInstr = some (.ldDtVx x)) (h : step s = .next t) :
    t.dt = s.v[x.val] := by
  rw [step_of_nextInstr hi, (ldSetsTheDelayTimer x s.beginCycle).2] at h
  cases h
  rfl

/-- A tick that executes LD Vy, DT leaves in `Vy` the `DT` that the countdown has already lowered
(40_cycle.md R81, 45_timers.md R181). -/
theorem step_v_of_ldVxDt {y : Reg} (hi : s.nextInstr = some (.ldVxDt y)) (h : step s = .next t) :
    t.v[y.val] = countdown s.dt := by
  rw [step_of_nextInstr hi, (ldReadsTheDelayTimer y s.beginCycle).2] at h
  cases h
  exact Vector.getElem_set_self ..

end Timers

end Machine

open Machine

/-- Settles O15: a tick that does not execute the timer's own instruction leaves it to the countdown. -/
theorem timersOnlyCountDownUnlessWritten : Obligations.TimersOnlyCountDownUnlessWritten :=
  fun s _ hr h =>
    ⟨fun hn => (congrArg BitVec.toNat (step_dt_of_not_ldDtVx hr h hn)).trans (countdown_toNat s.dt),
      fun hn => (congrArg BitVec.toNat (step_st_of_not_ldStVx hr h hn)).trans (countdown_toNat s.st)⟩

/-- Settles O16: the write sets `DT` to `Vx`, the run takes `k` from it, and the reading tick's own
countdown takes one more before the read. -/
theorem delayTimerReadsWhatIsLeft : Obligations.DelayTimerReadsWhatIsLeft := by
  intro k s0 s1 s2 s3 x y hwrite h01 hrun hread h23
  calc s3.v[y.val].toNat
      = s2.dt.toNat - 1 := by rw [step_v_of_ldVxDt hread h23, countdown_toNat]
    _ = s1.dt.toNat - k - 1 := by rw [dt_toNat_of_delayRun hrun]
    _ = s0.v[x.val].toNat - (k + 1) := by rw [step_dt_of_ldDtVx hwrite h01, Nat.sub_sub]

end Sys2Proof

/-! # Faults: the entry of a fault, its cause and its report, and the session that never waits -/

namespace Sys2Proof

namespace Machine

/-! ## A tick that halts the machine -/

/-- A running machine whose word at `PC` is illegal takes UnknownInstruction (60_exceptions.md R201). -/
theorem step_of_illegal {s : State} {e : DecodeError} (hr : s.running = true)
    (hpc : s.pc.toNat + 1 ≤ Config.maxAddr) (hd : decode (s.mem.read16 s.pc.toNat) = .error e) :
    step s = .next (s.beginCycle.raise .unknownInstruction (s.mem.read16 s.pc.toNat)) := by
  have hf : s.beginCycle.fetch = .ok (s.mem.read16 s.pc.toNat) := memRead16_of_le hpc
  simp only [step_of_running hr, runCycle, hf, runWord, hd]

/-- A tick that halts the machine took a fault, whose report names the fetched word, or 0 where the fetch
itself failed (60_exceptions.md R205). A fault of the instruction names its encoding, which is that word
since no bit of a decoded word is lost (30_encoding.md R66). -/
theorem step_to_halted {s t : State} (hh : s.halted = false) (h : step s = .next t)
    (ht : t.halted = true) :
    ∃ f, t = s.beginCycle.raise f
      (if s.pc.toNat ≤ 0x0FFE then s.mem.read16 s.pc.toNat else 0) := by
  rcases step_cases s with ⟨-, hs⟩ | ⟨-, hpc, hs⟩ | ⟨-, hpc, -, hs⟩ | ⟨-, hpc, i, hd, hs⟩ <;>
    rw [hs] at h
  · cases h
    rw [hh] at ht
    cases ht
  · cases h
    rw [if_neg (Nat.not_le.2 (Nat.lt_of_succ_lt_succ hpc))]
    exact ⟨_, rfl⟩
  · cases h
    rw [if_pos (Nat.le_of_succ_le_succ hpc)]
    exact ⟨_, rfl⟩
  · rw [if_pos (Nat.le_of_succ_le_succ hpc)]
    rcases exec_cases h with ⟨f, -, rfl⟩ | ⟨-, rfl⟩
    · exact ⟨f, by rw [(wellFormed_and_encode_of_decode hd).2]⟩
    · rw [completed_halted, State.beginCycle_halted, hh] at ht
      cases ht

/-! ## Sessions and runs -/

/-- A run of one tick more goes on from the state that its first tick leads to. -/
theorem run_succ_of_step {s t : State} (h : step s = .next t) (k : Nat) :
    Host.Core.run Sys2Proof.core (k + 1) s = Host.Core.run Sys2Proof.core k t := by
  have hc : Sys2Proof.core.step s = .next t := h
  simp only [Host.Core.run, hc]

/-- Any number of ticks leaves a machine that does not run as it is (40_cycle.md R85). -/
theorem run_of_not_running {s : State} (h : s.running = false) (k : Nat) :
    Host.Core.run Sys2Proof.core k s = .next s := by
  induction k with
  | zero => rfl
  | succ k ih => rw [run_succ_of_step (step_of_not_running h), ih]

/-- A session without a reset is the run of its ticks: every other action keeps all state
(60_exceptions.md R219). -/
theorem hostSession_eq_run {acts : List HostAction} (ha : ∀ a ∈ acts, a.isReset = false) (s : State) :
    hostSession acts s = Host.Core.run Sys2Proof.core (tickCount acts) s := by
  induction acts generalizing s with
  | nil => rfl
  | cons a rest ih =>
    obtain ⟨hreset, hrest⟩ := List.forall_mem_cons.1 ha
    by_cases htick : a = .tick
    · subst htick
      obtain ⟨t, hs⟩ := everyStateHasANextState s
      rw [hostSession_cons s ((hostAct_tick s).trans hs), ih hrest, tickCount_cons, if_pos rfl,
        run_succ_of_step hs]
    · rw [hostSession_cons s (hostAct_of_passive s htick hreset), ih hrest, tickCount_cons,
        if_neg htick, Nat.add_zero]

end Machine

open Machine

/-- Settles O12: the tick took a fault, whose entry changes only `HALTED` and the report, on the state
after the count and the countdown. -/
theorem faultingCycleChangesNothingElse : Obligations.FaultingCycleChangesNothingElse := by
  intro s t hh h ht
  obtain ⟨f, rfl⟩ := step_to_halted hh h ht
  rw [← countdown_eq, ← countdown_eq]
  rfl

/-- Settles O13: the entry of the fault that the tick took writes these three fields. -/
theorem reportNamesTheFetchedWord : Obligations.ReportNamesTheFetchedWord := by
  intro s t hh h ht
  obtain ⟨f, rfl⟩ := step_to_halted hh h ht
  exact ⟨rfl, rfl, rfl⟩

/-- Settles O14: an instruction that raises a fault takes just that one, and one that raises none
completes, which halts nothing. -/
theorem eachFaultHasItsOneCause : Obligations.EachFaultHasItsOneCause := by
  intro i s t hh h
  refine ⟨fun f hf => ?_, fun hn => ?_⟩
  · rw [exec_of_raises hf] at h
    cases h
    rfl
  · rw [exec_of_completes hn] at h
    cases h
    rw [completed_halted, hh]

/-- Settles O60: a tick of a running machine takes a fault or completes the instruction at `PC`; a
session is the run of its ticks, which a machine that does not run ignores. -/
theorem theMachineNeverWaitsAndIdlingKeepsAllState :
    Obligations.TheMachineNeverWaitsAndIdlingKeepsAllState := by
  refine ⟨fun s hr => ?_, fun acts s ha => hostSession_eq_run ha s, fun acts s ha hr => ?_⟩
  · obtain ⟨t, h⟩ := everyStateHasANextState s
    refine ⟨t, h, ?_⟩
    rcases step_cases_of_running hr h with ⟨f, w, rfl⟩ | ⟨i, hi, rfl⟩
    · exact ⟨rfl, .inr rfl⟩
    · exact ⟨completed_cycle i s.beginCycle, .inl ⟨i, hi, (step_of_nextInstr hi).symm.trans h⟩⟩
  · exact (hostSession_eq_run ha s).trans (run_of_not_running hr _)

/-- Settles O7: the entry of UnknownInstruction, with the countdown written out. -/
theorem tickOnAnIllegalWordHalts : Obligations.TickOnAnIllegalWordHalts := by
  intro s e hh hl hpc hd
  rw [step_of_illegal ((running_iff s).2 ⟨hh, hl⟩) (Nat.succ_le_succ hpc) hd, ← countdown_eq,
    ← countdown_eq]
  rfl

/-- Settles O9: each clause is `State.raise` or `FaultCode.bits` at its arguments. -/
theorem raiseWritesTheReportAndNothingElse : Obligations.RaiseWritesTheReportAndNothingElse :=
  fun _ _ _ => ⟨rfl, rfl, rfl, rfl, rfl⟩

end Sys2Proof

/-! # Reset: what it loads, what it turns away, and the first cycle of an empty program -/

namespace Sys2Proof

namespace Machine

/-! ## The memory that a reset loads -/

/-- A memory that holds the font and nothing else (10_state.md R21). -/
def fontMemory (font : Font) : Memory := Memory.writeList [] Config.fontBase font.toList

/-- The memory of an accepted reset: the font, then the program from 0x200 (70_reset_and_hazards.md R231).
`hostReset_of_fits` ties it to `hostReset`. -/
def loadedMemory (font : Font) (prog : List Byte) : Memory :=
  (fontMemory font).writeList Config.progBase prog

/-- A reset that accepts its program gives `State.reset` but for memory (70_reset_and_hazards.md R231). -/
theorem hostReset_of_fits (font : Font) {prog : List Byte} (u : State)
    (h : prog.length ≤ Config.progMax) :
    hostReset font prog u = .machine { State.reset with mem := loadedMemory font prog } :=
  if_neg (Nat.not_lt.2 h)

/-- A program that does not fit is turned away (70_reset_and_hazards.md R233). -/
theorem hostReset_of_tooLarge (font : Font) {prog : List Byte} (u : State)
    (h : Config.progMax < prog.length) :
    hostReset font prog u = .loadFailed { u with loadError := true, faultCode := .programTooLarge } :=
  if_pos h

theorem fontMemory_wf (font : Font) : (fontMemory font).wf :=
  Memory.writeList_wf Memory.wf_nil (by simp)

/-- The font covers every address that would otherwise read as a default glyph, and above it an unlisted
address reads as 0 (10_state.md R21). -/
theorem read_fontMemory (font : Font) (a : Nat) : (fontMemory font).read a = (font[a]?).getD 0 := by
  rw [fontMemory, Memory.read_writeList Memory.wf_nil.1]
  by_cases ha : a < 80
  · simp [ha]
  · simp [ha, Memory.unlisted]

/-- The program reads as itself from 0x200 (20_memory.md R59). -/
theorem read_loadedMemory_program (font : Font) {prog : List Byte} {k : Nat} (hk : k < prog.length) :
    (loadedMemory font prog).read (Config.progBase + k) = prog[k] :=
  Memory.read_writeList_add (fontMemory_wf font) Config.progBase hk

/-- Outside the program there is the font, and 0 above it (10_state.md R21). -/
theorem read_loadedMemory_outside (font : Font) {prog : List Byte} {a : Nat}
    (ha : ¬ (Config.progBase ≤ a ∧ a < Config.progBase + prog.length)) :
    (loadedMemory font prog).read a = (font[a]?).getD 0 := by
  rw [loadedMemory, Memory.read_writeList (fontMemory_wf font).1, if_neg ha, read_fontMemory]

/-- The default font and no program list no cell: every address reads as it does unlisted. -/
theorem loadedMemory_default : loadedMemory Config.font [] = [] :=
  Memory.wf_ext (loaded_mem_wf Config.font (Nat.zero_le _)) Memory.wf_nil fun _ =>
    read_loadedMemory_outside Config.font fun ⟨hle, hlt⟩ => Nat.not_lt.2 hle hlt

end Machine

open Machine

/-- Settles O55: the state is `State.reset` with the loaded memory, whose program starts above the font. -/
theorem resetLoadsTheFontAndTheProgram : Obligations.ResetLoadsTheFontAndTheProgram := by
  intro font prog u hprog
  refine ⟨_, hostReset_of_fits font u hprog, rfl, rfl, rfl, rfl, rfl, fun k => ?_, fun k hk => ?_,
    fun a hfont ha => ?_⟩
  · have hk : ¬ (Config.progBase ≤ k.val ∧ k.val < Config.progBase + prog.length) := by
      simp only [Config.progBase]; omega
    rw [read_loadedMemory_outside font hk]
    simp
  · rw [read_loadedMemory_program font hk]
    simp [hk]
  · rw [read_loadedMemory_outside font ha]
    simp [hfont]

/-- Settles O56: a machine whose load failed does not run, so it ignores a tick. -/
theorem oversizedProgramIsALoadError : Obligations.OversizedProgramIsALoadError := by
  intro font prog u hprog
  refine ⟨_, hostReset_of_tooLarge font u hprog, rfl, rfl, step_of_not_running ?_⟩
  simp [State.running]

/-- Settles O57: the default font lists no cell, and the word at 0x0200 is 0x0000, which is illegal. -/
theorem emptyProgramHaltsInItsFirstCycle : Obligations.EmptyProgramHaltsInItsFirstCycle := by
  refine ⟨fun u => ?_, ?_⟩
  · rw [hostReset_of_fits Config.font u (Nat.zero_le _), loadedMemory_default]
    rfl
  · have hword : State.reset.mem.read16 State.reset.pc.toNat = 0x0000 := by decide
    have hillegal : decode 0x0000 = .error (.unknownInstruction 0x0000) := by decide
    rw [step_of_illegal rfl (by decide) (by rw [hword, hillegal]), hword]
    rfl

end Sys2Proof
